-- ==== Sys2Proof/Word.lean ====
section
/-! DEFINITION. The words of the standaert-ha frame codec.

Rule R5 and section 5.1 of spec/00_scope.md: a byte is 8 bits, numbered 7 (most significant) down to 0; a
checksum is a 16-bit value; every quantity is unsigned. Lengths and indices are exact natural numbers (rule R61),
so they are `Nat`, never bit vectors. -/

namespace Sys2Proof

/-- `Byte` of section 5.1: an unsigned integer 0..255, bits 7 down to 0 (rule R5). -/
abbrev Byte := BitVec 8

/-- `U16` of section 5.1: an unsigned integer 0..65535, bits 15 down to 0 (rule R5). -/
abbrev U16 := BitVec 16

end Sys2Proof
end

