-- ==== Sys2Proof/Config.lean ====
section
/-! DEFINITION. What the document fixes (rule R3) and what an instantiation of the block chooses (rule R4).

The parameters are an ARGUMENT of the model: they stand in `State` as a record that no operation writes (rule R301), so
a statement about every state is a statement about every choice of them. `Params.document` is the choice that
reproduces the document (spec/92_eei_decisions.md, "Parameters left open"). -/

namespace Sys2Proof.Config

/-- `END`: the frame delimiter (rule R3). -/
abbrev endByte : Byte := 0xC0#8

/-- `ESC`: the escape introducer (rule R3). -/
abbrev escByte : Byte := 0xDB#8

/-- `ESC_END`: second byte of the pair that stands for END (rule R3). -/
abbrev escEndByte : Byte := 0xDC#8

/-- `ESC_ESC`: second byte of the pair that stands for ESC (rule R3). -/
abbrev escEscByte : Byte := 0xDD#8

/-- `CRC_POLY` (rule R3). -/
abbrev crcPoly : U16 := 0x1021#16

/-- `CRC_INIT` (rule R3). `CRC_REFIN`, `CRC_REFOUT` are false and `CRC_XOROUT` is 0: the procedure of
`Machine.compute` reflects nothing and ends with no XOR. -/
abbrev crcInit : U16 := 0x0000#16

/-- `CRC_BYTES`: the checksum's length in bytes (rule R3). -/
abbrev crcBytes : Nat := 2

/-- `MIN_RAW_LEN`: Feed discards silently a buffer shorter than this many raw bytes (rule R3). -/
abbrev minRawLen : Nat := 3

/-- `EVENT_SLOTS`: the number of Event Bytes at the head of a telemetry content (rule R3). -/
abbrev eventSlots : Nat := 32

/-- `OUT_STATE_LEN`: the number of Output State bytes (rule R3). -/
abbrev outStateLen : Nat := 4

/-- `CMD_TOGGLE_BIT`, bit 6: marks a toggle command and a valid event (rule R3). -/
abbrev cmdToggleBit : Byte := 0x40#8

/-- `EVT_RELEASE_BIT`, bit 7: event kind, 0 press, 1 release (rule R3). -/
abbrev evtReleaseBit : Byte := 0x80#8

/-- `INDEX_MASK`, bits 4..0: the button index (rule R3). -/
abbrev indexMask : Byte := 0x1F#8

/-- The block's only parameters (rule R4, decisions D2, D3, D15), fixed when the block is instantiated
(rule R27, rule R301). `none` is `unbounded`. -/
structure Params where
  /-- `MAX_FRAME`: the most raw bytes the accumulation buffer holds, at least 3 when finite (decision D3). -/
  maxFrame : Option Nat
  /-- `MAX_TX_CONTENT`: the longest command sequence `EncodeCommand` takes (decision D15). -/
  maxTxContent : Option Nat
  /-- `HANDSHAKE`: how the abstract ports map to wires; uninterpreted, and read by no rule (decision D2). The number
  names a mapping and means nothing. -/
  handshake : Nat
  deriving DecidableEq, Repr

/-- The parameters that reproduce the document: no bound anywhere (spec/92_eei_decisions.md). -/
def Params.document : Params := { maxFrame := none, maxTxContent := none, handshake := 0 }

end Sys2Proof.Config
end

