-- ==== Sys2Proof/Syntax.lean ====
section
/-! DEFINITION. The instructions of the block, the contexts a byte is read in, and the driver statements.

The block has no instruction words (spec/30_encoding.md): its instructions are the rows of spec/opcode_table.json,
namely the byte classes of rule R90 to rule R92, the escape pairs of rule R81, the Command and Event Byte forms of
rule R83 and rule R84, and the operations of rule R97. `Instr` has one constructor a row. -/

namespace Sys2Proof

/-- The context in which a raw byte is read: the `context` column of spec/opcode_table.json (rule R90 to rule R92,
rule R81, rule R83, rule R84). -/
inductive Context where
  /-- STREAM: the Frame Receiver looking at each incoming byte (rule R90). -/
  | stream
  /-- SCAN: Decode looking at the next unread byte (rule R91). -/
  | scan
  /-- AFTER_ESC: Decode looking at the byte that follows an ESC (rule R92). It lasts exactly one byte (rule R96). -/
  | afterEsc
  /-- Escaped payload: Decode reading whole code words, one literal byte or one escape pair (rule R81, rule R96). -/
  | escaped
  /-- Outbound content: the Command Encoder taking command bytes (rule R57, rule R83). -/
  | outbound
  /-- Telemetry content, offsets 0..31: the Telemetry Decoder reading Event Bytes (rule R58, rule R84). -/
  | telemetry
  deriving DecidableEq, Repr

/-- One constructor per row of spec/opcode_table.json. A byte-class row whose value the table leaves open carries that
byte; a Command or Event Byte row carries every bit the row leaves open, so that nothing of the byte is lost. -/
inductive Instr where
  /-- END, context STREAM (rule R90). -/
  | endMark
  /-- DATA, context STREAM: every value other than 0xC0 (rule R90). -/
  | data (b : Byte)
  /-- ESC, context SCAN (rule R91). -/
  | esc
  /-- RAW_END, context SCAN (rule R91, decision D11). -/
  | rawEnd
  /-- LIT, context SCAN: every value other than 0xDB and 0xC0 (rule R91). -/
  | lit (b : Byte)
  /-- ESC_END, context AFTER_ESC (rule R92). -/
  | escEnd
  /-- ESC_ESC, context AFTER_ESC (rule R92). -/
  | escEsc
  /-- BAD_ESC, context AFTER_ESC: every value other than 0xDC and 0xDD (rule R92). -/
  | badEsc (b : Byte)
  /-- PAIR.END: the raw bytes DB DC, which stand for payload byte 0xC0 (rule R81). -/
  | pairEnd
  /-- PAIR.ESC: the raw bytes DB DD, which stand for payload byte 0xDB (rule R81). -/
  | pairEsc
  /-- CMD.TOGGLE: a Command Byte with bit 6 set (rule R83); bits 7 and 5 have no meaning in the document. -/
  | cmdToggle (bit7 bit5 : Bool) (idx : BitVec 5)
  /-- EVT.PRESS: an Event Byte with bit 7 clear and bit 6 set (rule R84); bit 5 is ignored. -/
  | evtPress (bit5 : Bool) (idx : BitVec 5)
  /-- EVT.RELEASE: an Event Byte with bits 7 and 6 set (rule R84); bit 5 is ignored. -/
  | evtRelease (bit5 : Bool) (idx : BitVec 5)
  /-- EVT.PAD: an Event Byte with bit 6 clear (rule R84); every other bit is ignored. -/
  | evtPad (bit7 bit5 : Bool) (low : BitVec 5)
  /-- The operation Encode (rule R120). -/
  | encode (payload : List Byte)
  /-- The operation Decode (rule R124). -/
  | decode (raw : List Byte)
  /-- The operation Compute (rule R150). -/
  | compute (content : List Byte)
  /-- The operation AppendChecksum (rule R154). -/
  | appendChecksum (content : List Byte)
  /-- The operation Verify (rule R155). -/
  | verify (payload : List Byte)
  /-- The operation MkToggle (rule R180). -/
  | mkToggle (idx : Nat)
  /-- The operation EncodeCommand (rule R181). -/
  | encodeCommand (commands : List Byte)
  /-- The operation Feed (rule R200). -/
  | feed (b : Byte)
  /-- The operation DecodeEventByte (rule R230). -/
  | decodeEventByte (b : Byte)
  /-- The operation DecodeTelemetry (rule R232). -/
  | decodeTelemetry (content : List Byte)
  /-- The operation CheckPayload (rule R251). -/
  | checkPayload (payload : List Byte)
  /-- The operation RxStep (rule R253). -/
  | rxStep (b : Byte)
  /-- The operation Reset (rule R300). -/
  | reset
  deriving DecidableEq, Repr

/-- What the caller asks of the block, in order: the driver statements of rule R99 (`reset`, `toggle`, `send`, `feed`,
`rx`, `loop`), a direct call of each operation that rule R99 has no statement for (rule R97), and a sequence
presented byte by byte in one of the table's contexts. No bit pattern selects an operation (rule R100), so a statement
holds its operation and operands as data. -/
inductive Stmt where
  /-- `reset`: `Reset()` (rule R99). -/
  | reset
  /-- `toggle k`: transmit `EncodeCommand([MkToggle(k)])` (rule R99). -/
  | toggle (k : Nat)
  /-- `send b0 b1 ...`: transmit `EncodeCommand([b0, b1, ...])` (rule R99). -/
  | send (commands : List Byte)
  /-- `feed b0 b1 ...`: `Feed(b0)`, `Feed(b1)`, ... in order (rule R66, rule R99). -/
  | feed (bytes : List Byte)
  /-- `rx b0 b1 ...`: the same with `RxStep` in place of `Feed` (rule R99). -/
  | rx (bytes : List Byte)
  /-- `loop`: feed every byte of the transmit log, in order, then empty the transmit log (rule R99). -/
  | loop
  /-- The second half of `loop`: empty the transmit log. -/
  | emptyTxLog
  /-- A call of `Encode` (rule R120). -/
  | encode (payload : List Byte)
  /-- A call of `Decode` (rule R124). -/
  | decode (raw : List Byte)
  /-- A call of `Compute` (rule R150). -/
  | compute (content : List Byte)
  /-- A call of `AppendChecksum` (rule R154). -/
  | appendChecksum (content : List Byte)
  /-- A call of `Verify` (rule R155). -/
  | verify (payload : List Byte)
  /-- A call of `MkToggle` (rule R180). -/
  | mkToggle (idx : Nat)
  /-- A call of `DecodeEventByte` (rule R230). -/
  | decodeEventByte (b : Byte)
  /-- A call of `DecodeTelemetry` (rule R232). -/
  | decodeTelemetry (content : List Byte)
  /-- A call of `CheckPayload` (rule R251, rule R278). -/
  | checkPayload (payload : List Byte)
  /-- Begin a sequence that the block then reads one row of the opcode table at a time, in the given context. -/
  | present (ctx : Context) (bytes : List Byte)
  deriving DecidableEq, Repr

end Sys2Proof
end

