-- ==== Sys2Proof/WellFormed.lean ====
section
/-! DEFINITION. Which instructions and parameters are terms of the spec. -/

namespace Sys2Proof

/-- An instruction is well formed when its row of spec/opcode_table.json covers the byte it carries: a default row
means "every value not matched by another row of the same context" (rule R100), and `MkToggle` is defined for
an index of at most 31 (rule R180). -/
def Instr.wf : Instr → Bool
  | .data b => b != Config.endByte
  | .lit b => b != Config.escByte && b != Config.endByte
  | .badEsc b => b != Config.escEndByte && b != Config.escEscByte
  | .mkToggle idx => decide (idx ≤ 31)
  | .endMark => true
  | .esc => true
  | .rawEnd => true
  | .escEnd => true
  | .escEsc => true
  | .pairEnd => true
  | .pairEsc => true
  | .cmdToggle _ _ _ => true
  | .evtPress _ _ => true
  | .evtRelease _ _ => true
  | .evtPad _ _ _ => true
  | .encode _ => true
  | .decode _ => true
  | .compute _ => true
  | .appendChecksum _ => true
  | .verify _ => true
  | .encodeCommand _ => true
  | .feed _ => true
  | .decodeEventByte _ => true
  | .decodeTelemetry _ => true
  | .checkPayload _ => true
  | .rxStep _ => true
  | .reset => true

/-- The parameters are legal: a finite `MAX_FRAME` is at least 3 (rule R4). -/
def Config.Params.wf (p : Config.Params) : Bool :=
  match p.maxFrame with
  | none => true
  | some m => decide (Config.minRawLen ≤ m)

end Sys2Proof
end

