-- ==== Sys2Proof/Decode.lean ====
section
/-! DEFINITION. From raw bytes to an instruction, in the six contexts of spec/opcode_table.json, and back.

Rule R90 to rule R92 classify a byte in the contexts STREAM, SCAN and AFTER_ESC; rule R81 and rule R96 give the code
words of an escaped payload; rule R83 and rule R84 give the Command and Event Byte forms. An operation is selected by no
bit pattern (rule R100), so no byte decodes to one. -/

namespace Sys2Proof

/-! ### Bit fields of a Command or Event Byte (rule R83, rule R84, rule R88) -/

/-- A byte from its bit 7, bit 6, bit 5 and bits 4..0. -/
def fieldByte (bit7 bit6 bit5 : Bool) (low : BitVec 5) : Byte :=
  BitVec.ofBool bit7 ++ BitVec.ofBool bit6 ++ BitVec.ofBool bit5 ++ low

/-- Bit 7, `R`: 0 press, 1 release (rule R84). -/
def bit7 (b : Byte) : Bool := b.getLsbD 7

/-- Bit 6, `T` of a Command Byte and `V` of an Event Byte (rule R83, rule R84). -/
def bit6 (b : Byte) : Bool := b.getLsbD 6

/-- Bit 5: no meaning in the document (rule R95). -/
def bit5 (b : Byte) : Bool := b.getLsbD 5

/-- Bits 4..0, the button index (rule R88: `idx = byte & 0x1F`). -/
def indexField (b : Byte) : BitVec 5 := b.extractLsb' 0 5

/-! ### Decoding -/

/-- Why some bytes are no row of the table in their context. -/
inductive DecodeError where
  /-- There is no byte to read. -/
  | empty
  /-- Outbound content: "no meaning to a Command Byte with bit 6 clear" (rule R83). The byte is still marshalled
  unchanged by the Command Encoder (rule R182): see `Machine.fetch`. -/
  | undefinedCommandByte (b : Byte)
  deriving DecidableEq, Repr

/-- The decoder's answer: one instruction and the bytes after it, or a rejection by name. -/
inductive Decoded where
  | instr (i : Instr) (rest : List Byte)
  | rejected (why : DecodeError)
  deriving DecidableEq, Repr

/-- Context STREAM (rule R90). ESC is not interpreted while accumulating. -/
def decodeStream (b : Byte) : Instr :=
  if b = Config.endByte then .endMark else .data b

/-- Context SCAN (rule R91). -/
def decodeScan (b : Byte) : Instr :=
  if b = Config.escByte then .esc
  else if b = Config.endByte then .rawEnd
  else .lit b

/-- Context AFTER_ESC (rule R92). -/
def decodeAfterEsc (b : Byte) : Instr :=
  if b = Config.escEndByte then .escEnd
  else if b = Config.escEscByte then .escEsc
  else .badEsc b

/-- One code word of an escaped payload (rule R81, rule R96): 0xDB begins a two-byte form, every other value is a
one-byte form. An ESC that opens no legal pair is read as the row ESC alone, and the byte after it in context
AFTER_ESC. -/
def decodeEscaped (b : Byte) (rest : List Byte) : Decoded :=
  match rest with
  | t :: more =>
    if b = Config.escByte ∧ t = Config.escEndByte then .instr .pairEnd more
    else if b = Config.escByte ∧ t = Config.escEscByte then .instr .pairEsc more
    else .instr (decodeScan b) (t :: more)
  | [] => .instr (decodeScan b) []

/-- Outbound content: the toggle form `x1xiiiii` (rule R83). -/
def decodeCommand (b : Byte) (rest : List Byte) : Decoded :=
  if bit6 b then .instr (.cmdToggle (bit7 b) (bit5 b) (indexField b)) rest
  else .rejected (.undefinedCommandByte b)

/-- Telemetry content: `01xiiiii` press, `11xiiiii` release, `x0xxxxxx` padding (rule R84). -/
def decodeEvent (b : Byte) : Instr :=
  if bit6 b then
    if bit7 b then .evtRelease (bit5 b) (indexField b) else .evtPress (bit5 b) (indexField b)
  else .evtPad (bit7 b) (bit5 b) (indexField b)

/-- The decoder: the first row of the context's sequence, and the bytes after it. -/
def decode (ctx : Context) (bytes : List Byte) : Decoded :=
  match bytes with
  | [] => .rejected .empty
  | b :: rest =>
    match ctx with
    | .stream => .instr (decodeStream b) rest
    | .scan => .instr (decodeScan b) rest
    | .afterEsc => .instr (decodeAfterEsc b) rest
    | .escaped => decodeEscaped b rest
    | .outbound => decodeCommand b rest
    | .telemetry => .instr (decodeEvent b) rest

/-! ### Encoding -/

/-- The row's context and raw bytes, written from the table's `match` and `encoding` columns; `none` for an operation,
which no bit pattern selects (rule R100). -/
def encode (i : Instr) : Option (Context × List Byte) :=
  match i with
  | .endMark => some (.stream, [0xC0#8])
  | .data b => some (.stream, [b])
  | .esc => some (.scan, [0xDB#8])
  | .rawEnd => some (.scan, [0xC0#8])
  | .lit b => some (.scan, [b])
  | .escEnd => some (.afterEsc, [0xDC#8])
  | .escEsc => some (.afterEsc, [0xDD#8])
  | .badEsc b => some (.afterEsc, [b])
  | .pairEnd => some (.escaped, [0xDB#8, 0xDC#8])
  | .pairEsc => some (.escaped, [0xDB#8, 0xDD#8])
  | .cmdToggle r7 r5 idx => some (.outbound, [fieldByte r7 true r5 idx])
  | .evtPress r5 idx => some (.telemetry, [fieldByte false true r5 idx])
  | .evtRelease r5 idx => some (.telemetry, [fieldByte true true r5 idx])
  | .evtPad r7 r5 low => some (.telemetry, [fieldByte r7 false r5 low])
  | .encode _ => none
  | .decode _ => none
  | .compute _ => none
  | .appendChecksum _ => none
  | .verify _ => none
  | .mkToggle _ => none
  | .encodeCommand _ => none
  | .feed _ => none
  | .decodeEventByte _ => none
  | .decodeTelemetry _ => none
  | .checkPayload _ => none
  | .rxStep _ => none
  | .reset => none

/-! ### A word of the table without its context

A row of the table is selected by a bit pattern only WITHIN its context, and one value stands in several contexts (0xC0
is END, RAW_END and an Event Byte). Where a word comes with no context, the model takes the FIRST row of the table, in
the table's order, whose match and mask the word meets (DESIGN CHOICE, notes/assumptions/7.md). -/

/-- The raw bytes of a table word: one byte, or a pair with its first raw byte in bits 15..8 (rule R81, rule R100). -/
def tableBytes (nbits w : Nat) : Option (List Byte) :=
  if nbits = 8 ∧ w < 2 ^ 8 then some [BitVec.ofNat 8 w]
  else if nbits = 16 ∧ w < 2 ^ 16 then some [BitVec.ofNat 8 (w / 256), BitVec.ofNat 8 (w % 256)]
  else none

/-- The context of the first row of the table that the bytes meet, in the table's order: END, ESC, (RAW_END,) ESC_END,
ESC_ESC, the pairs, CMD.TOGGLE, (EVT.PRESS, EVT.RELEASE,) EVT.PAD. -/
def tableContext (bytes : List Byte) : Context :=
  match bytes with
  | [b] =>
    if b = Config.endByte then .stream
    else if b = Config.escByte then .scan
    else if b = Config.escEndByte ∨ b = Config.escEscByte then .afterEsc
    else if bit6 b then .outbound
    else .telemetry
  | _ => .escaped

/-- The instruction the decoder reads from a table word: the host's fixed name. `none` where the word is no row of the
table, or is longer than the row that its first byte begins. -/
def decodeTableWord (nbits w : Nat) : Option Instr :=
  match tableBytes nbits w with
  | none => none
  | some bytes =>
    match decode (tableContext bytes) bytes with
    | .instr i [] => some i
    | .instr _ (_ :: _) => none
    | .rejected _ => none

end Sys2Proof
end

