-- ==== Sys2Proof/Machine/State.lean ====
section
/-! DEFINITION. The state of the block, the results of its operations, and why a step can stop.

State is plain data. Section 1 of spec/10_state.md lists the block's own state (`rxbuf`, `rxdrop`, and the working
registers `crc`, `i`, `out`); the parameters are those of rule R4; the rest is what rule R306 to rule R308 and rule R99
put around the block: the caller's script, the bytes waiting to be read, and the logs of what the ports emitted. -/

namespace Sys2Proof.Machine

open Sys2Proof

/-! ### Results (section 5.1 of spec/00_scope.md) -/

/-- `Kind`: the kind of an event (rule R84). -/
inductive Kind where
  | press
  | release
  deriving DecidableEq, Repr

/-- `Event`: "(button index, press|release)" and nothing more (rule R238). -/
structure Event where
  button : Fin 32
  kind : Kind
  deriving DecidableEq, Repr

/-- The Output State: four raw bytes in wire order, never assembled into an integer (rule R52, rule R234). -/
structure OutputState where
  out0 : Byte
  out1 : Byte
  out2 : Byte
  out3 : Byte
  deriving DecidableEq, Repr

/-- `Record`: the decoded telemetry content (rule R232). -/
structure Record where
  events : List Event
  out : Option OutputState
  deriving DecidableEq, Repr

/-- The error classes of rule R260. -/
inductive ErrorClass where
  | framingError
  | checksumError
  | shortFrameError
  | oversizeError
  deriving DecidableEq, Repr

/-- The errors of the block, class and cause (rule R260). They are RESULTS, not stops: "the operation simply
returns" (rule R267), and no error records a value (rule R265). -/
inductive FrameError where
  /-- FramingError(truncated_escape): raised by Decode, hence Feed and RxStep (rule R126). -/
  | truncatedEscape
  /-- FramingError(malformed_escape_target): raised by Decode, hence Feed and RxStep (rule R125). -/
  | malformedEscapeTarget
  /-- ChecksumError(mismatch): raised by CheckPayload, hence RxStep (rule R251). -/
  | mismatch
  /-- ShortFrameError(no_checksum_field): raised by CheckPayload (rule R251, rule R252). -/
  | noChecksumField
  /-- ShortFrameError(telemetry_too_short): raised by DecodeTelemetry, hence RxStep (rule R232). -/
  | telemetryTooShort
  /-- OversizeError(frame_too_long): raised by Feed, hence RxStep, with a finite MAX_FRAME (rule R205). -/
  | frameTooLong
  deriving DecidableEq, Repr

/-- What an operation returns (the signatures of rule R97). -/
inductive Result where
  /-- `none` of Feed and RxStep; also "nothing yet" in the middle of a sequence read row by row. -/
  | none
  /-- `()` of Reset. -/
  | unit
  /-- `Seq Byte` of Encode, AppendChecksum and EncodeCommand. -/
  | bytes (bs : List Byte)
  /-- `ok(Seq Byte)` of Decode. -/
  | ok (bs : List Byte)
  /-- `U16` of Compute. -/
  | word (c : U16)
  /-- `Bool` of Verify. -/
  | bool (v : Bool)
  /-- `Byte` of MkToggle. -/
  | byte (b : Byte)
  /-- `payload(Seq Byte)` of Feed. -/
  | payload (bs : List Byte)
  /-- `Option Event` of DecodeEventByte. -/
  | event (e : Option Event)
  /-- `content(Seq Byte)` of CheckPayload. -/
  | content (bs : List Byte)
  /-- `record(Record)` of DecodeTelemetry and RxStep. -/
  | record (r : Record)
  /-- `error(class, cause)` (rule R260). -/
  | error (e : FrameError)
  deriving DecidableEq, Repr

/-! ### Why a step stops -/

/-- No instruction of the block stops the machine with a fault: its exceptions are error results (rule R267, "None of
these are fatal to the link", rule R268). The type has no constructor, so no step can answer a fault. -/
inductive Fault : Type
  deriving DecidableEq, Repr

/-- Why the model gives a call no meaning: the spec's own `refuse` (section 5.2 of spec/00_scope.md, rule R270). Every
refusal is safe: no next state, so no claim about one. -/
inductive Refusal where
  /-- Raised by an arm of `exec` that has no meaning yet; safe. No arm of this model raises it. -/
  | notModelled (mnemonic : String)
  /-- Raised by MkToggle for an index above 31 (rule R180: "if idx > 31 then refuse", decision D22); safe. -/
  | indexAbove31 (idx : Nat)
  /-- Raised by EncodeCommand, and by an outbound sequence read row by row, for a content longer than a finite
  MAX_TX_CONTENT (rule R181, decision D15); safe. -/
  | contentTooLong (length : Nat)
  deriving DecidableEq, Repr

/-! ### State -/

/-- The block's one memory, the accumulation buffer: byte-addressed by index 0 .. length - 1 (rule R28, rule R59). The
sequence is its own canonical form: the address of a byte is its position, so equal buffers are equal lists. -/
abbrev Memory := List Byte

/-- The state of the machine. -/
structure State where
  /-- The parameters (rule R4), fixed before reset and changed by nothing (rule R301). -/
  params : Config.Params
  /-- `rxbuf`: the raw bytes fed since the most recent END (rule R20). -/
  rxbuf : Memory
  /-- `rxdrop`: the frame now arriving overflowed and is being dropped (rule R21). -/
  rxdrop : Bool
  /-- `crc`: working register of the Checksum Module (rule R23). -/
  crc : U16
  /-- `i`: working register, the scan index of Decode and of DecodeTelemetry, and the content offset of the Command
  Encoder (rule R23, rule R25). -/
  i : Nat
  /-- `out : Seq Byte`: working register, the output accumulator of Decode and the content of the Command Encoder
  (rule R23). -/
  out : List Byte
  /-- `out : Seq Event`: working register, the output accumulator of DecodeTelemetry, called `events` in rule R232
  (rule R23). -/
  events : List Event
  /-- The context in which the next byte of `unread` is read (rule R90 to rule R92); STREAM when no sequence is being
  read. The model's own, for a sequence read row by row. -/
  ctx : Context
  /-- The bytes of the sequence being read row by row that are not yet read: the document's "the next byte". The
  model's own. -/
  unread : List Byte
  /-- The caller's statements still to run (rule R99, rule R308). -/
  script : List Stmt
  /-- The result of the last operation: what the port gives back for this one step (rule R306, rule R317). -/
  result : Result
  /-- The frames emitted on `tx_out`, oldest first: the transmit log (rule R99, rule R308). -/
  txLog : List (List Byte)
  /-- The results other than `none` emitted on `rx_out`, each with the index of the byte that produced it, oldest
  first: the receive log (rule R99, rule R308). -/
  rxLog : List (Nat × Result)
  /-- The index of the next byte on `rx_in`, counted from the last reset (rule R99). -/
  rxIndex : Nat
  deriving DecidableEq, Repr

/-- The machine right after reset: ACCUMULATING with an empty buffer (rule R30, rule R301), the document's parameters,
nothing waiting and nothing emitted. The working registers have no reset value (rule R31): the model gives them zero
and empty (DESIGN CHOICE, notes/assumptions/2.md). -/
def State.reset : State :=
  { params := Config.Params.document
    rxbuf := []
    rxdrop := false
    crc := 0#16
    i := 0
    out := []
    events := []
    ctx := .stream
    unread := []
    script := []
    result := .none
    txLog := []
    rxLog := []
    rxIndex := 0 }

end Sys2Proof.Machine
end

