-- ==== Sys2Proof/Machine/Operands.lean ====
section
/-! DEFINITION. The operand forms: how the rules index a sequence and take a field out of a byte or a checksum.

The block has no addressing modes (rule R60). Its effective-address computations are those of the table of rule R60,
and its field extractions those of rule R87 and rule R88. -/

namespace Sys2Proof.Machine

open Sys2Proof

/-- `payload[:-2]`, that is `p[..len(p)-2)` (rule R60), for a payload of at least 2 bytes. -/
def payloadContent (p : List Byte) : List Byte := p.take (p.length - Config.crcBytes)

/-- The last two bytes of a payload, `checksum_hi` and `checksum_lo` (rule R56); `none` below 2 bytes (the guard of rule
R60). -/
def payloadChecksumBytes (p : List Byte) : Option (Byte × Byte) :=
  match p.drop (p.length - Config.crcBytes) with
  | [hi, lo] => some (hi, lo)
  | _ => none

/-- `checksum_hi = (c >> 8) & 0xFF` (rule R87). -/
def checksumHi (c : U16) : Byte := (c >>> 8).setWidth 8

/-- `checksum_lo = c & 0xFF` (rule R87). -/
def checksumLo (c : U16) : Byte := c.setWidth 8

/-- `(zext_16(checksum_hi) << 8) | zext_16(checksum_lo)` (rule R87). -/
def joinChecksum (hi lo : Byte) : U16 := (hi.setWidth 16 <<< 8) ||| lo.setWidth 16

/-- An index field as a button number, unsigned, 0..31 (rule R88). -/
def buttonOf (idx : BitVec 5) : Fin 32 := ⟨idx.toNat, idx.isLt⟩

/-- The Output State of the content bytes from offset 32 on: the first four when four or more are there, else absent
(rule R234, rule R235). -/
def outputStateOf (tail : List Byte) : Option OutputState :=
  match tail with
  | b0 :: b1 :: b2 :: b3 :: _ => some ⟨b0, b1, b2, b3⟩
  | _ => none

end Sys2Proof.Machine
end

