-- ==== Sys2Proof/Machine/Flags.lean ====
section
/-! DEFINITION. The conditions the rules test, and the numbers of the errors.

The block has no flags register (rule R26): a condition is reported as the result of the operation that finds it, and
the only flag-like state is `rxdrop` (rule R21). These are the tests, each written once. -/

namespace Sys2Proof.Machine

open Sys2Proof

/-- `MAX_FRAME is finite and len(rxbuf) = MAX_FRAME` (rule R200, rule R205). -/
def bufferFull (p : Config.Params) (buf : Memory) : Bool :=
  match p.maxFrame with
  | none => false
  | some m => buf.length == m

/-- `len(f) < 3`, counting raw bytes (rule R202). -/
def shortStretch (raw : List Byte) : Bool := decide (raw.length < Config.minRawLen)

/-- `MAX_TX_CONTENT is finite and len(cs) > MAX_TX_CONTENT` (rule R181). -/
def exceedsTxContent (p : Config.Params) (len : Nat) : Bool :=
  match p.maxTxContent with
  | none => false
  | some m => decide (m < len)

/-- The numeric code of an error class (rule R260, decision D7); code 0 means "no error". -/
def ErrorClass.code (c : ErrorClass) : Nat :=
  match c with
  | .framingError => 1
  | .checksumError => 2
  | .shortFrameError => 3
  | .oversizeError => 4

/-- The class of an error (rule R260). -/
def FrameError.errorClass (e : FrameError) : ErrorClass :=
  match e with
  | .truncatedEscape => .framingError
  | .malformedEscapeTarget => .framingError
  | .mismatch => .checksumError
  | .noChecksumField => .shortFrameError
  | .telemetryTooShort => .shortFrameError
  | .frameTooLong => .oversizeError

/-- The sub-code of an error's cause (rule R260). -/
def FrameError.subCode (e : FrameError) : Nat :=
  match e with
  | .truncatedEscape => 0
  | .malformedEscapeTarget => 1
  | .mismatch => 0
  | .noChecksumField => 0
  | .telemetryTooShort => 1
  | .frameTooLong => 0

/-- The error code of a result: 0 when it is no error (rule R260). -/
def Result.errorCode (r : Result) : Nat :=
  match r with
  | .error e => e.errorClass.code
  | .none => 0
  | .unit => 0
  | .bytes _ => 0
  | .ok _ => 0
  | .word _ => 0
  | .bool _ => 0
  | .byte _ => 0
  | .payload _ => 0
  | .event _ => 0
  | .content _ => 0
  | .record _ => 0

end Sys2Proof.Machine
end

