-- ==== Sys2Proof/Machine/Ops.lean ====
section
/-! DEFINITION. The named operations over the buffer, the working registers and the ports.

The buffer is reached in the three ways of rule R54 only: append one byte, take the whole and leave it empty, clear on
overflow. Raising an error is ONE operation, `raise` (section 5.2 of spec/00_scope.md, rule R267); there is no return
from an error (rule R269). -/

namespace Sys2Proof.Machine

open Sys2Proof

/-! ### The accumulation buffer as a memory -/

/-- The buffer holds no END: it holds the raw bytes between two END markers (rule R20, rule R59). -/
def Memory.wf (m : Memory) : Bool := m.all (fun b => b != Config.endByte)

/-- `MemRead(addr, n)`: the `n` bytes `rxbuf[addr..addr+n)`, defined only when `addr + n <= len(rxbuf)` (section 5.2). -/
def Memory.read (m : Memory) (addr n : Nat) : Option (List Byte) :=
  if addr + n ≤ m.length then some ((m.drop addr).take n) else none

/-- `MemWrite(len(rxbuf), 1, b)`: append; no rule overwrites a byte in place (section 5.2, rule R54 (a)). -/
def Memory.append (m : Memory) (b : Byte) : Memory := m ++ [b]

/-- The buffer as (address, byte) cells, addresses rising from `base`. -/
def Memory.cellsFrom (base : Nat) (m : Memory) : List Host.Cell :=
  match m with
  | [] => []
  | b :: rest => (base, b) :: Memory.cellsFrom (base + 1) rest

/-- The buffer as (address, byte) cells, addresses rising from 0 (rule R59: `rxbuf[k]` is the `k`-th byte). -/
def Memory.cells (m : Memory) : List Host.Cell := Memory.cellsFrom 0 m

/-- `rxbuf <- rxbuf ++ [b]` (rule R54 (a), rule R204). -/
def State.appendRaw (s : State) (b : Byte) : State := { s with rxbuf := Memory.append s.rxbuf b }

/-- `rxbuf <- []`, `rxdrop <- false`: at every END, in every case (rule R201), and at Reset (rule R300). The caller of
this operation has taken the contents first (rule R54 (b)). -/
def State.clearReceiver (s : State) : State := { s with rxbuf := [], rxdrop := false }

/-- `rxbuf <- []`, `rxdrop <- true`: overflow (rule R54 (c), rule R205). -/
def State.startDropping (s : State) : State := { s with rxbuf := [], rxdrop := true }

/-! ### Results and ports -/

/-- An operation ends with a result: what it gives back for this one step (rule R317). -/
def State.answer (s : State) (r : Result) : State := { s with result := r }

/-- `raise E(cause)`: the operation ends at once with result `error(E, cause)`; state changes already written stand and
nothing else is written (section 5.2, rule R267). Every error of the block is raised here. -/
def State.raise (s : State) (e : FrameError) : State := s.answer (.error e)

/-- The receive log after one byte: a result other than `none` is appended with the index of the byte that produced it
(rule R99). -/
def rxLogged (log : List (Nat × Result)) (index : Nat) (r : Result) : List (Nat × Result) :=
  if r = .none then log else log ++ [(index, r)]

/-- A transaction on `rx_in` gives its result on `rx_out` (rule R306, rule R307). -/
def State.deliver (s : State) (r : Result) : State :=
  { s with result := r, rxLog := rxLogged s.rxLog s.rxIndex r, rxIndex := s.rxIndex + 1 }

/-- A complete frame leaves on `tx_out` as one unit (rule R186, rule R306). -/
def State.transmit (s : State) (frame : List Byte) : State :=
  { s with result := .bytes frame, txLog := s.txLog ++ [frame] }

/-! ### A sequence read row by row -/

/-- Begin a sequence in a context: the working registers are initialised (rule R23, rule R31) and the bytes wait. -/
def State.beginSequence (s : State) (ctx : Context) (bytes : List Byte) : State :=
  { s with crc := Config.crcInit, i := 0, out := [], events := [], ctx := ctx, unread := bytes }

/-- The sequence is over: nothing is left to read, and the context is that of the incoming stream. -/
def State.endSequence (s : State) : State := { s with ctx := .stream, unread := [] }

end Sys2Proof.Machine
end

