-- ==== Sys2Proof/Machine/Checksum.lean ====
section
/-! DEFINITION. The Checksum Module: Compute, AppendChecksum, Verify (spec/41_checksum.md). -/

namespace Sys2Proof.Machine

open Sys2Proof

/-! ### Compute (rule R150, rule R151) -/

/-- One pass of the inner loop of rule R151: the feedback is bit 15 XOR the data bit; the register shifts left and bit
15 is dropped; on feedback the polynomial is XORed in. -/
def crcBit (crc : U16) (d : Bool) : U16 :=
  if (crc.getLsbD 15 != d) = true then (crc <<< 1) ^^^ Config.crcPoly else crc <<< 1

/-- One byte, bits 7 down to 0, most significant first (rule R51, rule R151). -/
def crcByte (crc : U16) (b : Byte) : U16 :=
  [7, 6, 5, 4, 3, 2, 1, 0].foldl (fun c k => crcBit c (b.getLsbD k)) crc

/-- `Compute(data)` by the bit-serial procedure of rule R151, the definition (decision D20). -/
def compute (content : List Byte) : U16 := content.foldl crcByte Config.crcInit

/-! ### Compute, byte-wise (rule R152) -/

/-- One shift of rule R152: on bit 15 the polynomial is XORed in. -/
def crcShift (crc : U16) : U16 :=
  if crc.getLsbD 15 = true then (crc <<< 1) ^^^ Config.crcPoly else crc <<< 1

/-- One byte of rule R152: XOR the byte into the high half, then 8 shifts. -/
def crcByteWise (crc : U16) (b : Byte) : U16 :=
  crcShift (crcShift (crcShift (crcShift (crcShift (crcShift (crcShift (crcShift
    (crc ^^^ (b.setWidth 16 <<< 8)))))))))

/-- `Compute(data)` by the byte-wise procedure of rule R152. -/
def computeByteWise (content : List Byte) : U16 := content.foldl crcByteWise Config.crcInit

/-! ### AppendChecksum and Verify (rule R154, rule R155) -/

/-- A content followed by the two bytes of a checksum, high byte first (rule R50, rule R56). -/
def withChecksum (content : List Byte) (c : U16) : List Byte := content ++ [checksumHi c, checksumLo c]

/-- `AppendChecksum(d)` (rule R154). -/
def appendChecksum (content : List Byte) : List Byte := withChecksum content (compute content)

/-- `Verify(p)` (rule R155): false below 2 bytes, else the computed and the carried checksum are equal. -/
def verify (payload : List Byte) : Bool :=
  match payloadChecksumBytes payload with
  | none => false
  | some (hi, lo) => compute (payloadContent payload) == joinChecksum hi lo

/-- The working register `crc` when Verify returns: a payload below 2 bytes is refused before anything is computed
(rule R155). -/
def verifyCrc (crc : U16) (payload : List Byte) : U16 :=
  match payloadChecksumBytes payload with
  | none => crc
  | some _ => compute (payloadContent payload)

/-! ### Meanings -/

/-- Compute (rule R150). -/
def execCompute (content : List Byte) (s : State) : Host.Outcome State Fault Refusal :=
  .next ({ s with crc := compute content }.answer (.word (compute content)))

/-- AppendChecksum (rule R154). -/
def execAppendChecksum (content : List Byte) (s : State) : Host.Outcome State Fault Refusal :=
  .next ({ s with crc := compute content }.answer (.bytes (appendChecksum content)))

/-- Verify (rule R155): it never raises. -/
def execVerify (payload : List Byte) (s : State) : Host.Outcome State Fault Refusal :=
  .next ({ s with crc := verifyCrc s.crc payload }.answer (.bool (verify payload)))

end Sys2Proof.Machine
end

