-- ==== Sys2Proof/Machine/Framing.lean ====
section
/-! DEFINITION. The Framing Codec: Encode, Decode, the rows of contexts SCAN and AFTER_ESC, and the escape pairs
(spec/40_framing_codec.md, rule R81, rule R91, rule R92). -/

namespace Sys2Proof.Machine

open Sys2Proof

/-! ### Encode (rule R120) -/

/-- `Escape1(b)` (rule R120). -/
def escape1 (b : Byte) : List Byte :=
  if b = Config.escByte then [Config.escByte, Config.escEscByte]
  else if b = Config.endByte then [Config.escByte, Config.escEndByte]
  else [b]

/-- `Escape(p)` (rule R120): the bytes are processed independently and in order. -/
def escape (p : List Byte) : List Byte := p.flatMap escape1

/-- `Encode(p)` (rule R120). -/
def encodeFrame (p : List Byte) : List Byte := [Config.endByte] ++ escape p ++ [Config.endByte]

/-! ### Decode (rule R124) -/

/-- The working registers `i` and `out` of Decode when it returns, and the error it raised, if any. -/
structure ScanEnd where
  i : Nat
  out : List Byte
  error : Option FrameError
  deriving DecidableEq, Repr

/-- The loop of Decode (rule R124) from index `i` with output `out`, on the bytes from index `i` on. -/
def scan (f : List Byte) (i : Nat) (out : List Byte) : ScanEnd :=
  match f with
  | [] => { i := i, out := out, error := none }
  | [b] =>
    if b = Config.escByte then { i := i, out := out, error := some .truncatedEscape }
    else { i := i + 1, out := out ++ [b], error := none }
  | b :: t :: rest =>
    if b = Config.escByte then
      if t = Config.escEndByte then scan rest (i + 2) (out ++ [Config.endByte])
      else if t = Config.escEscByte then scan rest (i + 2) (out ++ [Config.escByte])
      else { i := i, out := out, error := some .malformedEscapeTarget }
    else scan (t :: rest) (i + 1) (out ++ [b])

/-- `Decode(f)` (rule R124): the whole loop. -/
def decodeRaw (f : List Byte) : ScanEnd := scan f 0 []

/-- The result of Decode: `ok(out)`, or the error with nothing of `out` (rule R128). -/
def decodeResult (r : ScanEnd) : Result :=
  match r.error with
  | none => .ok r.out
  | some e => .error e

/-- Decode leaves its working registers `i` and `out` behind; they are dead (rule R23). -/
def State.scanned (s : State) (r : ScanEnd) : State := { s with i := r.i, out := r.out }

/-! ### One turn of the loop of Decode -/

/-- A byte goes to the output and `n` raw bytes are consumed; with nothing left to read the loop ends and Decode returns
`ok(out)` (rule R124). -/
def State.scanEmit (s : State) (v : Byte) (n : Nat) : State :=
  if s.unread = [] then
    ({ s with i := s.i + n, out := s.out ++ [v] }.endSequence).answer (.ok (s.out ++ [v]))
  else { s with i := s.i + n, out := s.out ++ [v] }.answer .none

/-- An error ends the scan: no later byte is read (rule R128). -/
def State.scanRaise (s : State) (e : FrameError) : State := s.endSequence.raise e

/-- After an escape pair the scan is in context SCAN again (rule R96: AFTER_ESC lasts exactly one byte). -/
def State.backToScan (s : State) : State := { s with ctx := .scan }

/-! ### Meanings -/

/-- Encode (rule R120). -/
def execEncode (payload : List Byte) (s : State) : Host.Outcome State Fault Refusal :=
  .next (s.answer (.bytes (encodeFrame payload)))

/-- Decode (rule R124 to rule R128). -/
def execDecode (raw : List Byte) (s : State) : Host.Outcome State Fault Refusal :=
  .next ((s.scanned (decodeRaw raw)).answer (decodeResult (decodeRaw raw)))

/-- ESC (rule R91): opens an escape pair; the following byte is read in context AFTER_ESC, and if there is none the
scan ends in FramingError(truncated_escape) (rule R126). -/
def execEsc (s : State) : Host.Outcome State Fault Refusal :=
  if s.unread = [] then .next (s.scanRaise .truncatedEscape)
  else .next ({ s with ctx := .afterEsc }.answer .none)

/-- RAW_END (rule R91, rule R127, decision D11): copied to the output. -/
def execRawEnd (s : State) : Host.Outcome State Fault Refusal :=
  .next (s.scanEmit Config.endByte 1)

/-- LIT (rule R91, rule R127): copied to the output unchanged. -/
def execLit (b : Byte) (s : State) : Host.Outcome State Fault Refusal :=
  .next (s.scanEmit b 1)

/-- ESC_END (rule R92): output byte 0xC0; the pair is consumed, `i <- i + 2` (rule R124). -/
def execEscEnd (s : State) : Host.Outcome State Fault Refusal :=
  .next (s.backToScan.scanEmit Config.endByte 2)

/-- ESC_ESC (rule R92): output byte 0xDB; the pair is consumed, `i <- i + 2` (rule R124). -/
def execEscEsc (s : State) : Host.Outcome State Fault Refusal :=
  .next (s.backToScan.scanEmit Config.escByte 2)

/-- BAD_ESC (rule R92, rule R125): FramingError(malformed_escape_target); the frame is rejected. The byte's value is not
recorded (rule R265). -/
def execBadEsc (_b : Byte) (s : State) : Host.Outcome State Fault Refusal :=
  .next (s.scanRaise .malformedEscapeTarget)

/-- PAIR.END (rule R81): the raw bytes DB DC stand for payload byte 0xC0. -/
def execPairEnd (s : State) : Host.Outcome State Fault Refusal :=
  .next (s.scanEmit Config.endByte 2)

/-- PAIR.ESC (rule R81): the raw bytes DB DD stand for payload byte 0xDB. -/
def execPairEsc (s : State) : Host.Outcome State Fault Refusal :=
  .next (s.scanEmit Config.escByte 2)

end Sys2Proof.Machine
end

