-- ==== Sys2Proof/Machine/Command.lean ====
section
/-! DEFINITION. The Command Encoder: MkToggle, EncodeCommand, and the row CMD.TOGGLE (spec/42_command_encoder.md, rule
R57, rule R83). -/

namespace Sys2Proof.Machine

open Sys2Proof

/-- `0x40 | idx` (rule R180): bits 7 and 5 are 0. -/
def toggleByte (idx : Nat) : Byte := BitVec.ofNat 8 (0x40 ||| idx)

/-- `Encode(AppendChecksum(cs))` (rule R181). -/
def commandFrame (commands : List Byte) : List Byte := encodeFrame (appendChecksum commands)

/-- One command byte joins the outbound content, unchanged and uninspected (rule R57, rule R182): content offset `i`
holds it, and its bits enter the checksum register. With nothing left to read, the content is complete and its frame
leaves on `tx_out` (rule R181, rule R186). A content longer than a finite MAX_TX_CONTENT is refused at its first byte,
before anything is done (rule R181). -/
def marshalByte (b : Byte) (s : State) : Host.Outcome State Fault Refusal :=
  if exceedsTxContent s.params (s.i + 1 + s.unread.length) then
    .refused (.contentTooLong (s.i + 1 + s.unread.length))
  else if s.unread = [] then
    .next (({ s with i := s.i + 1, out := s.out ++ [b], crc := crcByte s.crc b }.endSequence).transmit
      (encodeFrame (withChecksum (s.out ++ [b]) (crcByte s.crc b))))
  else
    .next ({ s with i := s.i + 1, out := s.out ++ [b], crc := crcByte s.crc b }.answer .none)

/-! ### Meanings -/

/-- MkToggle (rule R180): refused for an index above 31 rather than truncated (decision D22). -/
def execMkToggle (idx : Nat) (s : State) : Host.Outcome State Fault Refusal :=
  if 31 < idx then .refused (.indexAbove31 idx)
  else .next (s.answer (.byte (toggleByte idx)))

/-- EncodeCommand (rule R181): a transaction on `cmd_in`; the frame leaves on `tx_out` (rule R306). -/
def execEncodeCommand (commands : List Byte) (s : State) : Host.Outcome State Fault Refusal :=
  if exceedsTxContent s.params commands.length then .refused (.contentTooLong commands.length)
  else .next ({ s with crc := compute commands }.transmit (commandFrame commands))

/-- CMD.TOGGLE (rule R83): one Command Byte of the outbound content; bits 7 and 5 are passed on as given (rule R182). -/
def execCmdToggle (b7 b5 : Bool) (idx : BitVec 5) (s : State) : Host.Outcome State Fault Refusal :=
  marshalByte (fieldByte b7 true b5 idx) s

end Sys2Proof.Machine
end

