-- ==== Sys2Proof/Machine/Receiver.lean ====
section
/-! DEFINITION. The Frame Receiver: Feed and the rows of context STREAM (spec/43_frame_receiver.md, rule R90). -/

namespace Sys2Proof.Machine

open Sys2Proof

/-- The result of Feed for a taken buffer of 3 or more raw bytes (rule R203). -/
def payloadResult (r : ScanEnd) : Result :=
  match r.error with
  | none => .payload r.out
  | some e => .error e

/-- Feed of END (rule R201 to rule R203): the buffer is taken and cleared first and in every case; a dropped frame and a
stretch shorter than 3 raw bytes give nothing; a longer one is unescaped. -/
def feedEnd (s : State) : State × Result :=
  if s.rxdrop then (s.clearReceiver, .none)
  else if shortStretch s.rxbuf then (s.clearReceiver, .none)
  else (s.clearReceiver.scanned (decodeRaw s.rxbuf), payloadResult (decodeRaw s.rxbuf))

/-- Feed of any other byte (rule R204, rule R205). -/
def feedData (b : Byte) (s : State) : State × Result :=
  if s.rxdrop then (s, .none)
  else if bufferFull s.params s.rxbuf then (s.startDropping, .error .frameTooLong)
  else (s.appendRaw b, .none)

/-- `Feed(b)` (rule R200): the receiver's part, before the result is delivered. -/
def feedByte (b : Byte) (s : State) : State × Result :=
  if b = Config.endByte then feedEnd s else feedData b s

/-- The state after one Feed, its result delivered on `rx_out` (rule R306). -/
def State.fed (s : State) (b : Byte) : State := (feedByte b s).1.deliver (feedByte b s).2

/-- A batch of received bytes, taken in order, each result delivered in turn (rule R66). -/
def State.fedAll (s : State) (bytes : List Byte) : State := bytes.foldl State.fed s

/-! ### Meanings -/

/-- END (rule R90, rule R201): closes the accumulated buffer. -/
def execEndMark (s : State) : Host.Outcome State Fault Refusal :=
  .next ((feedEnd s).1.deliver (feedEnd s).2)

/-- DATA (rule R90, rule R204): appended to `rxbuf` unchanged, 0xDB, 0xDC and 0xDD included. -/
def execData (b : Byte) (s : State) : Host.Outcome State Fault Refusal :=
  .next ((feedData b s).1.deliver (feedData b s).2)

/-- Feed (rule R200). -/
def execFeed (b : Byte) (s : State) : Host.Outcome State Fault Refusal :=
  .next (s.fed b)

end Sys2Proof.Machine
end

