-- ==== Sys2Proof/Machine/Telemetry.lean ====
section
/-! DEFINITION. The Telemetry Decoder: DecodeEventByte, DecodeTelemetry, and the Event Byte rows
(spec/44_telemetry_decoder.md, rule R58, rule R84). -/

namespace Sys2Proof.Machine

open Sys2Proof

/-- `DecodeEventByte(b)` (rule R230). -/
def eventOfByte (b : Byte) : Option Event :=
  if b &&& Config.cmdToggleBit = 0#8 then none
  else some
    { button := buttonOf (indexField (b &&& Config.indexMask))
      kind := if b &&& Config.evtReleaseBit = 0#8 then .press else .release }

/-- The events of the event region, in ascending slot order (rule R233). -/
def eventsOf (region : List Byte) : List Event := region.filterMap eventOfByte

/-- The record of a content of at least 32 bytes (rule R232, rule R234, rule R235). -/
def recordOf (content : List Byte) : Record :=
  { events := eventsOf (content.take Config.eventSlots)
    out := outputStateOf (content.drop Config.eventSlots) }

/-- `DecodeTelemetry(c)` (rule R232). -/
def telemetryResult (content : List Byte) : Result :=
  if content.length < Config.eventSlots then .error .telemetryTooShort else .record (recordOf content)

/-- DecodeTelemetry leaves its working registers `i` and `events` behind; they are dead (rule R23). A content that is
too short is rejected before they are initialised (rule R232). -/
def State.telemetryDone (s : State) (content : List Byte) : State :=
  if content.length < Config.eventSlots then s
  else { s with i := Config.eventSlots, events := (recordOf content).events }

/-- One turn of the loop of DecodeTelemetry (rule R232) at content offset `i`: an event is emitted or skipped. The
length of the content, read so far and unread together, is tested before anything is emitted. After slot 31 the record
is complete, with the Output State from the bytes that follow (rule R234), and the rest is ignored (rule R235). -/
def State.eventSlot (s : State) (e : Option Event) : State :=
  if s.i + 1 + s.unread.length < Config.eventSlots then s.endSequence.raise .telemetryTooShort
  else if s.i + 1 < Config.eventSlots then
    { s with i := s.i + 1, events := s.events ++ e.toList }.answer .none
  else
    ({ s with i := s.i + 1, events := s.events ++ e.toList }.endSequence).answer
      (.record { events := s.events ++ e.toList, out := outputStateOf s.unread })

/-! ### Meanings -/

/-- DecodeEventByte (rule R230). -/
def execDecodeEventByte (b : Byte) (s : State) : Host.Outcome State Fault Refusal :=
  .next (s.answer (.event (eventOfByte b)))

/-- DecodeTelemetry (rule R232 to rule R237). -/
def execDecodeTelemetry (content : List Byte) (s : State) : Host.Outcome State Fault Refusal :=
  .next ((s.telemetryDone content).answer (telemetryResult content))

/-- EVT.PRESS (rule R84): a press of button `idx`; bit 5 is ignored. -/
def execEvtPress (_b5 : Bool) (idx : BitVec 5) (s : State) : Host.Outcome State Fault Refusal :=
  .next (s.eventSlot (some { button := buttonOf idx, kind := .press }))

/-- EVT.RELEASE (rule R84): a release of button `idx`; bit 5 is ignored. -/
def execEvtRelease (_b5 : Bool) (idx : BitVec 5) (s : State) : Host.Outcome State Fault Refusal :=
  .next (s.eventSlot (some { button := buttonOf idx, kind := .release }))

/-- EVT.PAD (rule R84): padding, skipped; bits 7, 5 and 4..0 are ignored. -/
def execEvtPad (_b7 _b5 : Bool) (_low : BitVec 5) (s : State) : Host.Outcome State Fault Refusal :=
  .next (s.eventSlot none)

end Sys2Proof.Machine
end

