-- ==== Sys2Proof/Machine/Pipeline.lean ====
section
/-! DEFINITION. The receive pipeline: CheckPayload and RxStep (spec/45_rx_pipeline.md). -/

namespace Sys2Proof.Machine

open Sys2Proof

/-- `CheckPayload(p)` (rule R251): the length is tested before the checksum (rule R266). -/
def checkResult (payload : List Byte) : Result :=
  if payload.length < Config.crcBytes then .error .noChecksumField
  else if verify payload then .content (payloadContent payload)
  else .error .mismatch

/-- CheckPayload leaves the working register `crc` behind, as Verify does; a payload below 2 bytes is rejected before
Verify runs (rule R251). -/
def State.checked (s : State) (payload : List Byte) : State := { s with crc := verifyCrc s.crc payload }

/-- What follows a payload in RxStep: the check, then the Telemetry Decoder (rule R250, rule R253). -/
def payloadStep (payload : List Byte) (s : State) : State × Result :=
  match checkResult payload with
  | .content c => ((s.checked payload).telemetryDone c, telemetryResult c)
  | r => (s.checked payload, r)

/-- `RxStep(b)` (rule R253): Feed, and on a payload the rest of the inbound path. -/
def rxByte (b : Byte) (s : State) : State × Result :=
  match (feedByte b s).2 with
  | .payload p => payloadStep p (feedByte b s).1
  | r => ((feedByte b s).1, r)

/-- The state after one RxStep, its result delivered on `rx_out` (rule R306). -/
def State.rxStepped (s : State) (b : Byte) : State := (rxByte b s).1.deliver (rxByte b s).2

/-- The same with `RxStep` in place of `Feed` (rule R99). -/
def State.rxAll (s : State) (bytes : List Byte) : State := bytes.foldl State.rxStepped s

/-! ### Meanings -/

/-- CheckPayload (rule R251). -/
def execCheckPayload (payload : List Byte) (s : State) : Host.Outcome State Fault Refusal :=
  .next ((s.checked payload).answer (checkResult payload))

/-- RxStep (rule R253). -/
def execRxStep (b : Byte) (s : State) : Host.Outcome State Fault Refusal :=
  .next (s.rxStepped b)

end Sys2Proof.Machine
end

