-- ==== Sys2Proof/Machine/Reset.lean ====
section
/-! DEFINITION. Reset (spec/70_reset_and_hazards.md, rule R300). -/

namespace Sys2Proof.Machine

open Sys2Proof

/-- Reset (rule R300): `rxbuf <- []`, `rxdrop <- false`; nothing is reported for bytes discarded, the transmit path is
unaffected, and the parameters are not changed (rule R301). The index of a byte counts from the last reset (rule R99). -/
def execReset (s : State) : Host.Outcome State Fault Refusal :=
  .next ({ s.clearReceiver with rxIndex := 0 }.answer .unit)

end Sys2Proof.Machine
end

