-- ==== Sys2Proof/Machine/Dispatch.lean ====
section
/-! DEFINITION. One arm per row of spec/opcode_table.json. -/

namespace Sys2Proof.Machine

open Sys2Proof

def exec (i : Instr) (s : State) : Host.Outcome State Fault Refusal :=
  match i with
  | .endMark => Sys2Proof.Machine.execEndMark s
  | .data b => Sys2Proof.Machine.execData b s
  | .esc => Sys2Proof.Machine.execEsc s
  | .rawEnd => Sys2Proof.Machine.execRawEnd s
  | .lit b => Sys2Proof.Machine.execLit b s
  | .escEnd => Sys2Proof.Machine.execEscEnd s
  | .escEsc => Sys2Proof.Machine.execEscEsc s
  | .badEsc b => Sys2Proof.Machine.execBadEsc b s
  | .pairEnd => Sys2Proof.Machine.execPairEnd s
  | .pairEsc => Sys2Proof.Machine.execPairEsc s
  | .cmdToggle b7 b5 idx => Sys2Proof.Machine.execCmdToggle b7 b5 idx s
  | .evtPress b5 idx => Sys2Proof.Machine.execEvtPress b5 idx s
  | .evtRelease b5 idx => Sys2Proof.Machine.execEvtRelease b5 idx s
  | .evtPad b7 b5 low => Sys2Proof.Machine.execEvtPad b7 b5 low s
  | .encode payload => Sys2Proof.Machine.execEncode payload s
  | .decode raw => Sys2Proof.Machine.execDecode raw s
  | .compute content => Sys2Proof.Machine.execCompute content s
  | .appendChecksum content => Sys2Proof.Machine.execAppendChecksum content s
  | .verify payload => Sys2Proof.Machine.execVerify payload s
  | .mkToggle idx => Sys2Proof.Machine.execMkToggle idx s
  | .encodeCommand commands => Sys2Proof.Machine.execEncodeCommand commands s
  | .feed b => Sys2Proof.Machine.execFeed b s
  | .decodeEventByte b => Sys2Proof.Machine.execDecodeEventByte b s
  | .decodeTelemetry content => Sys2Proof.Machine.execDecodeTelemetry content s
  | .checkPayload payload => Sys2Proof.Machine.execCheckPayload payload s
  | .rxStep b => Sys2Proof.Machine.execRxStep b s
  | .reset => Sys2Proof.Machine.execReset s

end Sys2Proof.Machine
end

