-- ==== Sys2Proof/Machine/Fetch.lean ====
section
/-! DEFINITION. What the next step runs: the bytes of the sequence being read, else the caller's next statement.

The block fetches no instructions (rule R25, rule R65): what sequences it is the position in a byte sequence and the
order in which the caller presents its transactions (rule R306 to rule R308). Operations are atomic (rule R6), so a
statement's operation starts only when no sequence is being read. -/

namespace Sys2Proof.Machine

open Sys2Proof

/-- What the next step does. -/
inductive Fetched where
  /-- It runs an instruction in a state. -/
  | instr (i : Instr) (s : State)
  /-- It marshals a byte of outbound content that is no row of the table: bit 6 is clear, and the Command Encoder
  "does not inspect its bytes" (rule R182). -/
  | command (b : Byte) (s : State)
  /-- It only moves on in the script. -/
  | moved (s : State)
  /-- Nothing waits: "nothing happens in the block except in response to a call" (rule R272). -/
  | idle

/-- The bytes of a batch still to be presented, ahead of the rest of the script (rule R66). -/
def batch (stmt : List Byte → Stmt) (bytes : List Byte) (more : List Stmt) : List Stmt :=
  match bytes with
  | [] => more
  | b :: bs => stmt (b :: bs) :: more

/-- A sequence of no bytes ends as the operation on the empty sequence does; the bytes after an ESC that are not there
leave the escape truncated (rule R126); an empty batch of received bytes is nothing. -/
def emptySequence (ctx : Context) : Option Instr :=
  match ctx with
  | .stream => none
  | .scan => some (.decode [])
  | .afterEsc => some (.decode [Config.escByte])
  | .escaped => some (.decode [])
  | .outbound => some (.encodeCommand [])
  | .telemetry => some (.decodeTelemetry [])

/-- One statement of the script; `s` has the rest of the script already (rule R99, rule R97). -/
def fetchStmt (st : Stmt) (s : State) : Fetched :=
  match st with
  | .reset => .instr .reset s
  | .toggle k => .instr (.mkToggle k) { s with script := .send [toggleByte k] :: s.script }
  | .send commands => .instr (.encodeCommand commands) s
  | .feed [] => .moved s
  | .feed (b :: bs) => .instr (.feed b) { s with script := batch .feed bs s.script }
  | .rx [] => .moved s
  | .rx (b :: bs) => .instr (.rxStep b) { s with script := batch .rx bs s.script }
  | .loop => .moved { s with script := batch .feed s.txLog.flatten (.emptyTxLog :: s.script) }
  | .emptyTxLog => .moved { s with txLog := [] }
  | .encode payload => .instr (.encode payload) s
  | .decode raw => .instr (.decode raw) s
  | .compute content => .instr (.compute content) s
  | .appendChecksum content => .instr (.appendChecksum content) s
  | .verify payload => .instr (.verify payload) s
  | .mkToggle idx => .instr (.mkToggle idx) s
  | .decodeEventByte b => .instr (.decodeEventByte b) s
  | .decodeTelemetry content => .instr (.decodeTelemetry content) s
  | .checkPayload payload => .instr (.checkPayload payload) s
  | .present ctx [] =>
    match emptySequence ctx with
    | none => .moved s
    | some i => .instr i s
  | .present ctx (b :: bs) => .moved (s.beginSequence ctx (b :: bs))

/-- The next statement of the script, or nothing: the run ends when the script is exhausted (rule R308). -/
def fetchScript (s : State) : Fetched :=
  match s.script with
  | [] => .idle
  | st :: more => fetchStmt st { s with script := more }

/-- What the next step does: the next row of the sequence being read, in its context, else the next statement. -/
def fetch (s : State) : Fetched :=
  match decode s.ctx s.unread with
  | .instr i rest => .instr i { s with unread := rest }
  | .rejected (.undefinedCommandByte b) => .command b { s with unread := s.unread.tail }
  | .rejected .empty => fetchScript s

/-- Nothing waits to be read, and the caller's statements are these. -/
def State.withScript (s : State) (script : List Stmt) : State :=
  { s with ctx := .stream, unread := [], script := script }

/-! ### Placing an instruction where the next step fetches it -/

/-- The statement that calls an operation; none for a row that a bit pattern selects. -/
def callOf (i : Instr) : List Stmt :=
  match i with
  | .encode payload => [.encode payload]
  | .decode raw => [.decode raw]
  | .compute content => [.compute content]
  | .appendChecksum content => [.appendChecksum content]
  | .verify payload => [.verify payload]
  | .mkToggle idx => [.mkToggle idx]
  | .encodeCommand commands => [.send commands]
  | .feed b => [.feed [b]]
  | .decodeEventByte b => [.decodeEventByte b]
  | .decodeTelemetry content => [.decodeTelemetry content]
  | .checkPayload payload => [.checkPayload payload]
  | .rxStep b => [.rx [b]]
  | .reset => [.reset]
  | .endMark => []
  | .data _ => []
  | .esc => []
  | .rawEnd => []
  | .lit _ => []
  | .escEnd => []
  | .escEsc => []
  | .badEsc _ => []
  | .pairEnd => []
  | .pairEsc => []
  | .cmdToggle _ _ _ => []
  | .evtPress _ _ => []
  | .evtRelease _ _ => []
  | .evtPad _ _ _ => []

/-- The state whose next step runs the instruction: a row is presented as a sequence of its own in its context, an
operation is called by the first statement of the script. -/
def State.withInstr (s : State) (i : Instr) : State :=
  match encode i with
  | some (ctx, bytes) => s.beginSequence ctx bytes
  | none => { s with unread := [], script := callOf i ++ s.script }

/-- The state whose next step reads a word of the opcode table: the word is presented as a sequence of its own, in the
context of the first row it meets (`tableContext`). -/
def State.withTableWord (s : State) (nbits w : Nat) : State :=
  match tableBytes nbits w with
  | none => s
  | some bytes => s.beginSequence (tableContext bytes) bytes

end Sys2Proof.Machine
end

