-- ==== Sys2Proof/Machine/Step.lean ====
section
/-! DEFINITION. One step of the machine: one atomic operation, or one row of a sequence (rule R6, decision D1). -/

namespace Sys2Proof.Machine

open Sys2Proof

/-- One step. There is no time in it (rule R318); a step with nothing to do leaves the state as it is (rule R272,
rule R308). -/
def step (s : State) : Host.Outcome State Fault Refusal :=
  match fetch s with
  | .instr i s' => exec i s'
  | .command b s' => marshalByte b s'
  | .moved s' => .next s'
  | .idle => .next s

/-- The host's fixed name: the state whose next step runs the instruction that `decodeTableWord nbits w` names. -/
def State.withFetchWord (s : State) (nbits w : Nat) : State := s.withTableWord nbits w

end Sys2Proof.Machine
end

