-- ==== Sys2Proof/Safety.lean ====
section
/-! DEFINITION. What holds of a receiver in every safe run.

Rule R20, rule R21 and rule R61 say what the accumulation buffer and the drop flag may hold; rule R4 says which
parameters are legal. -/

namespace Sys2Proof.Machine

open Sys2Proof

/-- The invariant of the receiver. -/
structure ReceiverInv (s : State) : Prop where
  /-- A finite MAX_FRAME is at least 3 (rule R4). -/
  paramsLegal : s.params.wf = true
  /-- No byte of the buffer is END (rule R20, rule R59). -/
  noEnd : Memory.wf s.rxbuf = true
  /-- "When `rxdrop = true`, `rxbuf = []`" (rule R21). -/
  droppingEmpty : s.rxdrop = true → s.rxbuf = []
  /-- With MAX_FRAME unbounded, `rxdrop` is the constant `false` (rule R21). -/
  droppingBounded : s.params.maxFrame = none → s.rxdrop = false
  /-- With a finite MAX_FRAME, `len(rxbuf) <= MAX_FRAME` always (rule R61). -/
  bounded : ∀ m, s.params.maxFrame = some m → s.rxbuf.length ≤ m

/-- The receiver is ACCUMULATING with an empty buffer: the "clean accumulating state" (rule R268, rule R301). -/
structure Clean (s : State) : Prop where
  bufferEmpty : s.rxbuf = []
  notDropping : s.rxdrop = false

end Sys2Proof.Machine
end

