-- ==== Sys2Proof/Certificates/Slice0/Obligations.lean ====
section
/-! DEFINITION. The statements for the provers. Each says which rule of spec/ it formalises, and which of its clauses
rest on a choice of the spec (a decision D<n> of spec/92_eei_decisions.md, or an inference the spec marks as its own) or
of the model (notes/assumptions/<n>.md). -/

open Sys2Proof Sys2Proof.Machine

/-! ### Encodings and the step -/

/-- Decoding the raw bytes of a well-formed row of the opcode table, in the row's context and whatever follows, gives
the row back (rule R81, rule R83, rule R84, rule R90 to rule R92). -/
def Obligations.DecodeInvertsEncode : Prop :=
  ∀ (i : Instr) (ctx : Context) (bytes rest : List Byte),
    i.wf = true → encode i = some (ctx, bytes) → decode ctx (bytes ++ rest) = .instr i rest

/-- In every context a byte begins exactly one row of that context: the decoder answers a well-formed row whose context
is the one read in and whose raw bytes are the bytes read. In an escaped payload what begins no legal pair is read as its
row of context SCAN: ESC, RAW_END or LIT (the model's reading, DEDUCED, notes/assumptions/12.md). The one exception is a
byte of outbound content with bit 6 clear, to which the document gives no meaning (rule R83): it is rejected by name
(notes/assumptions/12.md). -/
def Obligations.EveryByteBeginsOneRow : Prop :=
  ∀ (ctx : Context) (b : Byte) (rest : List Byte),
    (∃ (i : Instr) (ctx' : Context) (bytes more : List Byte),
      decode ctx (b :: rest) = .instr i more ∧ i.wf = true ∧
        encode i = some (ctx', bytes) ∧ b :: rest = bytes ++ more ∧
        (ctx' = ctx ∨ (ctx = .escaped ∧ ctx' = .scan))) ∨
    (ctx = .outbound ∧ b.getLsbD 6 = false ∧ decode ctx (b :: rest) = .rejected (.undefinedCommandByte b))

/-- Words written out bit by bit from the tables of rule R81, rule R83, rule R84, rule R90, rule R91 and rule R92 decode
to the rows they stand for. -/
def Obligations.WordsOfTheTableDecode : Prop :=
  decode .stream [0b11000000#8, 0b01000000#8] = .instr .endMark [0b01000000#8] ∧
  decode .stream [0b11011011#8] = .instr (.data 0xDB#8) [] ∧
  decode .scan [0b11011011#8, 0b11011100#8] = .instr .esc [0b11011100#8] ∧
  decode .scan [0b11000000#8] = .instr .rawEnd [] ∧
  decode .scan [0b11011100#8] = .instr (.lit 0xDC#8) [] ∧
  decode .afterEsc [0b11011100#8] = .instr .escEnd [] ∧
  decode .afterEsc [0b11011101#8] = .instr .escEsc [] ∧
  decode .afterEsc [0b11011011#8] = .instr (.badEsc 0xDB#8) [] ∧
  decode .escaped [0b11011011#8, 0b11011100#8] = .instr .pairEnd [] ∧
  decode .escaped [0b11011011#8, 0b11011101#8] = .instr .pairEsc [] ∧
  decode .outbound [0b01011000#8] = .instr (.cmdToggle false false 24#5) [] ∧
  decode .telemetry [0b01000001#8] = .instr (.evtPress false 1#5) [] ∧
  decode .telemetry [0b11100001#8] = .instr (.evtRelease true 1#5) [] ∧
  decode .telemetry [0b00100000#8] = .instr (.evtPad false true 0#5) []

/-- A step runs the decoded row: when the unread bytes decode to a row, the step is that row's meaning, in the state
with the row's bytes read. -/
def Obligations.StepRunsTheDecodedRow : Prop :=
  ∀ (s : State) (i : Instr) (rest : List Byte),
    decode s.ctx s.unread = .instr i rest → step s = exec i { s with unread := rest }

/-- When no sequence is being read, a step runs the operation that the next statement of the script calls, with the
statement consumed: for every operation of rule R97. No bit pattern selects an operation (rule R100). -/
def Obligations.StepRunsTheCalledOperation : Prop :=
  ∀ (s : State) (i : Instr) (more : List Stmt),
    encode i = none → s.unread = [] → s.script = callOf i ++ more →
      step s = exec i { s with script := more }

/-- The step after `withFetchWord` runs exactly the instruction that `decodeTableWord` names, with nothing left to
read and the receiver as it was. -/
def Obligations.TableWordRunsAtTheNextStep : Prop :=
  ∀ (s : State) (nbits w : Nat) (i : Instr),
    decodeTableWord nbits w = some i →
      ∃ s' : State, step (s.withFetchWord nbits w) = exec i s' ∧ s'.unread = [] ∧
        s'.rxbuf = s.rxbuf ∧ s'.rxdrop = s.rxdrop ∧ s'.params = s.params ∧
        s'.txLog = s.txLog ∧ s'.rxLog = s.rxLog ∧ s'.rxIndex = s.rxIndex ∧ s'.script = s.script

/-- "Nothing happens in the block except in response to a call" (rule R272): with nothing to read and no statement
left, a step changes nothing (rule R308). -/
def Obligations.NothingHappensWithoutACall : Prop :=
  ∀ s : State, s.unread = [] → s.script = [] → step s = .next s

/-- A batch is its bytes in order (rule R66, rule R99): `feed b0 b1 ...` runs `Feed` on each byte, and `rx b0 b1 ...` runs
`RxStep` on each, one step a byte, and neither changes the rest of the script or the sequence being read. -/
def Obligations.FeedStatementFeedsEachByteInOrder : Prop :=
  ∀ (s : State) (bytes : List Byte) (more : List Stmt), bytes ≠ [] →
    Host.Core.run core bytes.length (s.withScript (.feed bytes :: more)) =
      .next ((s.withScript more).fedAll bytes) ∧
    Host.Core.run core bytes.length (s.withScript (.rx bytes :: more)) =
      .next ((s.withScript more).rxAll bytes)

/-- `loop` (rule R99, decision D19): every byte of the transmit log is fed in order, then the transmit log is empty. That
the batch is taken when the statement begins, with one step to place it and one to empty the log beside one step a byte,
is the model's choice (notes/assumptions/9.md). -/
def Obligations.LoopFeedsTheTransmitLogThenEmptiesIt : Prop :=
  ∀ (s : State) (more : List Stmt),
    Host.Core.run core (s.txLog.flatten.length + 2) (s.withScript (.loop :: more)) =
      .next { (s.withScript more).fedAll s.txLog.flatten with txLog := [] }

/-! ### The Framing Codec -/

/-- Encode (rule R120): END, every byte escaped on its own and in order, END; nothing else is written. -/
def Obligations.EncodeEscapesBetweenTwoEnds : Prop :=
  ∀ (p : List Byte) (s : State),
    exec (.encode p) s = .next { s with
      result := .bytes ([0xC0#8] ++
        p.flatMap (fun b => if b = 0xDB#8 then [0xDB#8, 0xDD#8]
          else if b = 0xC0#8 then [0xDB#8, 0xDC#8] else [b]) ++ [0xC0#8]) }

/-- The shape and length of every frame (rule R121 and rule R122, which the spec derives from rule R120): it begins and ends
with END, holds no other END, every ESC in it is followed at once by ESC_END or ESC_ESC, and it is longer than the payload
by the two END bytes and one byte for each END or ESC of the payload. -/
def Obligations.EncodedFrameShapeAndLength : Prop :=
  ∀ (p : List Byte) (s : State), ∃ f : List Byte,
    exec (.encode p) s = .next { s with result := .bytes f } ∧
    f[0]? = some 0xC0#8 ∧ f[f.length - 1]? = some 0xC0#8 ∧
    (∀ k, 0 < k → k < f.length - 1 → f[k]? ≠ some 0xC0#8) ∧
    (∀ k, f[k]? = some 0xDB#8 → f[k + 1]? = some 0xDC#8 ∨ f[k + 1]? = some 0xDD#8) ∧
    f.length = p.length + 2 + p.countP (fun b => b == 0xC0#8 || b == 0xDB#8)

/-- Round trip (rule R129): Decode of a frame without its two END bytes gives the payload back, for every payload; the
working registers `i` and `out` hold the length of the input and the output, and nothing else changes. -/
def Obligations.DecodeUndoesEncode : Prop :=
  ∀ (d f : List Byte) (s t : State),
    exec (.encode d) s = .next t → t.result = .bytes f →
      exec (.decode ((f.drop 1).dropLast)) s =
        .next { s with i := f.length - 2, out := d, result := .ok d }

/-- What Decode accepts (rule R130, which the spec derives from rule R124): an input without END is accepted exactly when
it is the escaped form of a payload, and that payload is the result. -/
def Obligations.DecodeAcceptsExactlyEscapedPayloads : Prop :=
  ∀ (f p : List Byte) (s t : State), (0xC0#8 : Byte) ∉ f → exec (.decode f) s = .next t →
    (t.result = .ok p ↔
      f = p.flatMap (fun b => if b = 0xDB#8 then [0xDB#8, 0xDD#8]
        else if b = 0xC0#8 then [0xDB#8, 0xDC#8] else [b]))

/-- The length of what Decode accepts (rule R131, which the spec derives from rule R124): one byte less for each escape
pair, and an ESC of an accepted input begins a pair. So 3 raw bytes or more give 2 bytes or more. -/
def Obligations.DecodedLength : Prop :=
  ∀ (f p : List Byte) (s t : State), exec (.decode f) s = .next t → t.result = .ok p →
    p.length + f.count 0xDB#8 = f.length ∧ f.length ≤ 2 * p.length ∧ (3 ≤ f.length → 2 ≤ p.length)

/-- Decode is total (rule R124): on every input it answers the accepted bytes or one of its two errors, and writes
nothing but its working registers. -/
def Obligations.DecodeAlwaysAnswers : Prop :=
  ∀ (f : List Byte) (s : State), ∃ (n : Nat) (o : List Byte) (r : Result),
    exec (.decode f) s = .next { s with i := n, out := o, result := r } ∧
    (r = .ok o ∨ r = .error .truncatedEscape ∨ r = .error .malformedEscapeTarget)

/-- Malformed escape target and truncated escape (rule R125, rule R126): after any accepted beginning, an ESC followed by a
byte other than ESC_END and ESC_ESC ends Decode with the one error, whatever follows, and an ESC as the last byte ends it
with the other; nothing of the output is returned. -/
def Obligations.DecodeRejectsABadEscape : Prop :=
  ∀ (g p : List Byte) (s u : State), exec (.decode g) s = .next u → u.result = .ok p →
    (∀ (t : Byte) (h : List Byte), t ≠ 0xDC#8 → t ≠ 0xDD#8 → ∃ (n : Nat) (o : List Byte),
      exec (.decode (g ++ 0xDB#8 :: t :: h)) s =
        .next { s with i := n, out := o, result := .error .malformedEscapeTarget }) ∧
    (∃ (n : Nat) (o : List Byte),
      exec (.decode (g ++ [0xDB#8])) s =
        .next { s with i := n, out := o, result := .error .truncatedEscape })

/-- One turn of the loop of Decode for each row of the contexts SCAN and AFTER_ESC and each escape pair, with bytes left
to read (rule R81, rule R91, rule R92, rule R124): the output, the index, the context and nothing else. The malformed
target ends the scan (rule R125). -/
def Obligations.ScanRowsTakeOneTurn : Prop :=
  ∀ (s : State) (b : Byte), s.unread ≠ [] →
    exec .esc s = .next { s with ctx := .afterEsc, result := .none } ∧
    exec .rawEnd s = .next { s with i := s.i + 1, out := s.out ++ [0xC0#8], result := .none } ∧
    exec (.lit b) s = .next { s with i := s.i + 1, out := s.out ++ [b], result := .none } ∧
    exec .escEnd s = .next { s with i := s.i + 2, out := s.out ++ [0xC0#8], ctx := .scan, result := .none } ∧
    exec .escEsc s = .next { s with i := s.i + 2, out := s.out ++ [0xDB#8], ctx := .scan, result := .none } ∧
    exec (.badEsc b) s =
      .next { s with ctx := .stream, unread := [], result := .error .malformedEscapeTarget } ∧
    exec .pairEnd s = .next { s with i := s.i + 2, out := s.out ++ [0xC0#8], result := .none } ∧
    exec .pairEsc s = .next { s with i := s.i + 2, out := s.out ++ [0xDB#8], result := .none }

/-- The last turn of the loop of Decode, with nothing left to read (rule R91, rule R92, rule R124 to rule R126): the output
is returned, an ESC with no byte after it is the truncated escape, and an illegal target is the malformed one. -/
def Obligations.ScanRowsEndTheLoop : Prop :=
  ∀ (s : State) (b : Byte), s.unread = [] →
    exec .esc s = .next { s with ctx := .stream, result := .error .truncatedEscape } ∧
    exec .rawEnd s = .next { s with
      i := s.i + 1, out := s.out ++ [0xC0#8], ctx := .stream, result := .ok (s.out ++ [0xC0#8]) } ∧
    exec (.lit b) s = .next { s with
      i := s.i + 1, out := s.out ++ [b], ctx := .stream, result := .ok (s.out ++ [b]) } ∧
    exec .escEnd s = .next { s with
      i := s.i + 2, out := s.out ++ [0xC0#8], ctx := .stream, result := .ok (s.out ++ [0xC0#8]) } ∧
    exec .escEsc s = .next { s with
      i := s.i + 2, out := s.out ++ [0xDB#8], ctx := .stream, result := .ok (s.out ++ [0xDB#8]) } ∧
    exec (.badEsc b) s = .next { s with ctx := .stream, result := .error .malformedEscapeTarget } ∧
    exec .pairEnd s = .next { s with
      i := s.i + 2, out := s.out ++ [0xC0#8], ctx := .stream, result := .ok (s.out ++ [0xC0#8]) } ∧
    exec .pairEsc s = .next { s with
      i := s.i + 2, out := s.out ++ [0xDB#8], ctx := .stream, result := .ok (s.out ++ [0xDB#8]) }

/-- Reading a raw sequence row by row in the contexts SCAN and AFTER_ESC ends in the very state, result included, that
the one atomic operation Decode gives (rule R91, rule R92, rule R124). That a row is a step of its own is the model's
choice (notes/assumptions/6.md). -/
def Obligations.RowByRowScanIsDecode : Prop :=
  ∀ (s : State) (f : List Byte), f ≠ [] →
    Host.Core.run core f.length ((s.withScript []).beginSequence .scan f) =
      exec (.decode f) ((s.withScript []).beginSequence .stream [])

/-- The same when the sequence is read in whole code words, literal or escape pair (rule R81, rule R96, rule R124): the
two ways of reading an escaped payload agree. That a code word is a step of its own, and that an ESC without a legal pair
is read as the row ESC, are the model's (notes/assumptions/6.md, DESIGN CHOICE, and notes/assumptions/12.md, DEDUCED). -/
def Obligations.CodeWordScanIsDecode : Prop :=
  ∀ (s : State) (f : List Byte), f ≠ [] →
    Host.Core.run core f.length ((s.withScript []).beginSequence .escaped f) =
      exec (.decode f) ((s.withScript []).beginSequence .stream [])

/-! ### The Checksum Module -/

/-- Compute is the bit-serial shift register (rule R151, general knowledge of the spec, decision D20): over the bits of
the bytes in order, most significant first, the feedback is bit 15 XOR the data bit. -/
def Obligations.ComputeIsTheBitSerialRegister : Prop :=
  ∀ (d : List Byte) (s : State), ∃ c : U16,
    exec (.compute d) s = .next { s with crc := c, result := .word c } ∧
    c = (d.flatMap (fun b => [b.getLsbD 7, b.getLsbD 6, b.getLsbD 5, b.getLsbD 4,
        b.getLsbD 3, b.getLsbD 2, b.getLsbD 1, b.getLsbD 0])).foldl
      (fun (crc : U16) (bit : Bool) =>
        if Bool.xor (crc.getLsbD 15) bit then (crc <<< 1) ^^^ 0x1021#16 else crc <<< 1) 0x0000#16

/-- The byte-wise procedure computes the same function (rule R152, general knowledge of the spec). -/
def Obligations.ComputeByteWiseIsCompute : Prop :=
  ∀ (d : List Byte) (s : State),
    exec (.compute d) s = .next { s with
      crc := d.foldl (fun (crc : U16) (b : Byte) => Nat.repeat
        (fun c : U16 => if c.getLsbD 15 then (c <<< 1) ^^^ 0x1021#16 else c <<< 1) 8
        (crc ^^^ (b.setWidth 16 <<< 8))) 0x0000#16,
      result := .word (computeByteWise d) }

/-- AppendChecksum (rule R154): the data, then bits 15..8 and bits 7..0 of what Compute gives for it. -/
def Obligations.AppendChecksumPutsTheHighByteFirst : Prop :=
  ∀ (d : List Byte) (s : State), ∃ c : U16,
    exec (.compute d) s = .next { s with crc := c, result := .word c } ∧
    exec (.appendChecksum d) s = .next { s with
      crc := c, result := .bytes (d ++ [((c >>> 8) &&& 0xFF#16).setWidth 8, (c &&& 0xFF#16).setWidth 8]) }

/-- Verify (rule R155): false below 2 bytes; else the checksum that Compute gives for all but the last two bytes, against
those two bytes, high byte first. It never raises. -/
def Obligations.VerifyComparesComputedWithCarried : Prop :=
  (∀ (p : List Byte) (s : State), p.length < 2 →
    exec (.verify p) s = .next { s with result := .bool false }) ∧
  (∀ (d : List Byte) (hi lo : Byte) (s : State), ∃ c : U16,
    exec (.compute d) s = .next { s with crc := c, result := .word c } ∧
    exec (.verify (d ++ [hi, lo])) s = .next { s with
      crc := c, result := .bool (decide (c = (hi.setWidth 16 <<< 8) ||| lo.setWidth 16)) })

/-- "`Verify(AppendChecksum(d))` is true for all `d`", the empty data included (rule R156). -/
def Obligations.VerifyAcceptsAppendChecksum : Prop :=
  ∀ (d p : List Byte) (s t u : State),
    exec (.appendChecksum d) s = .next t → t.result = .bytes p →
      exec (.verify p) s = .next u → u.result = .bool true

/-- The checksum is blind to leading zero bytes, and every all-zero payload of 2 bytes or more verifies (rule R159, which
the spec derives from rule R151). -/
def Obligations.LeadingZerosDoNotChangeTheChecksum : Prop :=
  (∀ (n : Nat) (d : List Byte) (s : State), ∃ c : U16,
    exec (.compute d) s = .next { s with crc := c, result := .word c } ∧
    exec (.compute (List.replicate n 0x00#8 ++ d)) s = .next { s with crc := c, result := .word c }) ∧
  (∀ (n : Nat) (s t : State), 2 ≤ n →
    exec (.verify (List.replicate n 0x00#8)) s = .next t → t.result = .bool true)

/-- Residue (rule R160, general knowledge of the spec): a payload of 2 bytes or more verifies exactly when its own
checksum, the two last bytes included, is zero. -/
def Obligations.VerifyIsAZeroResidue : Prop :=
  ∀ (p : List Byte) (s t u : State), 2 ≤ p.length →
    exec (.verify p) s = .next t → exec (.compute p) s = .next u →
      (t.result = .bool true ↔ u.result = .word 0x0000#16)

/-! ### The Command Encoder -/

/-- MkToggle (rule R180, decisions D8 and D22): for an index of at most 31 the byte with bit 6 set, bits 7 and 5 clear and
the index below; an index above 31 is refused, not truncated. -/
def Obligations.MkToggleBuildsTheToggleByte : Prop :=
  (∀ (idx : Nat) (s : State), idx ≤ 31 → ∃ b : Byte,
    exec (.mkToggle idx) s = .next { s with result := .byte b } ∧
    b.toNat = 0x40 + idx ∧ b.getLsbD 7 = false ∧ b.getLsbD 6 = true ∧ b.getLsbD 5 = false ∧
    b ≠ 0xC0#8 ∧ b ≠ 0xDB#8) ∧
  (∀ (idx : Nat) (s : State), 31 < idx → exec (.mkToggle idx) s = .refused (.indexAbove31 idx))

/-- EncodeCommand (rule R181, decision D15): within a finite MAX_TX_CONTENT or with none, the frame of the commands and
their checksum is the result and leaves on `tx_out`, and only the working register `crc` changes beside; a longer
sequence is refused. -/
def Obligations.EncodeCommandEmitsOneFrame : Prop :=
  (∀ (cs : List Byte) (s : State), (∀ m, s.params.maxTxContent = some m → cs.length ≤ m) →
    ∃ (c : U16) (p f : List Byte) (t u : State),
      exec (.appendChecksum cs) s = .next t ∧ t.result = .bytes p ∧ t.crc = c ∧
      exec (.encode p) s = .next u ∧ u.result = .bytes f ∧
      exec (.encodeCommand cs) s = .next { s with
        crc := c, result := .bytes f, txLog := s.txLog ++ [f] }) ∧
  (∀ (cs : List Byte) (s : State) (m : Nat), s.params.maxTxContent = some m → m < cs.length →
    exec (.encodeCommand cs) s = .refused (.contentTooLong cs.length))

/-- "`EncodeCommand` does not inspect its bytes" (rule R182): any byte sequence is marshalled as given. Decode of the frame
without its END bytes, then CheckPayload, gives exactly the commands back. -/
def Obligations.CommandsAreMarshalledUnchanged : Prop :=
  ∀ (cs f p : List Byte) (s t u v : State),
    exec (.encodeCommand cs) s = .next t → t.result = .bytes f →
      exec (.decode ((f.drop 1).dropLast)) s = .next u → u.result = .ok p →
        exec (.checkPayload p) s = .next v → v.result = .content cs

/-- The row CMD.TOGGLE (rule R57, rule R83): the byte joins the outbound content at the next offset, bits 7 and 5 as
given, and its bits enter the checksum register. With nothing left to read the content is complete, and its frame leaves
on `tx_out` (rule R181). A content longer than a finite MAX_TX_CONTENT is refused (rule R181, decision D15). -/
def Obligations.CommandRowJoinsTheContent : Prop :=
  ∀ (s : State) (b7 b5 : Bool) (idx : BitVec 5) (b : Byte),
    encode (.cmdToggle b7 b5 idx) = some (.outbound, [b]) →
    (∀ m, s.params.maxTxContent = some m → m < s.i + 1 + s.unread.length →
      exec (.cmdToggle b7 b5 idx) s = .refused (.contentTooLong (s.i + 1 + s.unread.length))) ∧
    ((∀ m, s.params.maxTxContent = some m → s.i + 1 + s.unread.length ≤ m) → s.unread ≠ [] →
      exec (.cmdToggle b7 b5 idx) s = .next { s with
        i := s.i + 1, out := s.out ++ [b], crc := crcByte s.crc b, result := .none }) ∧
    ((∀ m, s.params.maxTxContent = some m → s.i + 1 + s.unread.length ≤ m) → s.unread = [] →
      ∃ (f : List Byte) (u : State),
      exec (.encode (s.out ++ [b] ++ [((crcByte s.crc b >>> 8) &&& 0xFF#16).setWidth 8,
        (crcByte s.crc b &&& 0xFF#16).setWidth 8])) s = .next u ∧ u.result = .bytes f ∧
      exec (.cmdToggle b7 b5 idx) s = .next { s with
        i := s.i + 1, out := s.out ++ [b], crc := crcByte s.crc b, ctx := .stream,
        result := .bytes f, txLog := s.txLog ++ [f] })

/-- Presenting command bytes one by one, of whatever value, is EncodeCommand (rule R181, rule R182): the same frame on
`tx_out`, the same refusal when there are too many, and the checksum register computed bit-serially on the way. That a
byte is a step of its own is the model's choice (notes/assumptions/6.md); one with bit 6 clear is no row and is marshalled
all the same (notes/assumptions/12.md, DEDUCED). -/
def Obligations.RowByRowCommandsAreEncodeCommand : Prop :=
  ∀ (s : State) (cs : List Byte), cs ≠ [] →
    Host.Core.run core cs.length ((s.withScript []).beginSequence .outbound cs) =
      exec (.encodeCommand cs)
        { (s.withScript []).beginSequence .stream [] with i := cs.length, out := cs }

/-! ### The Frame Receiver -/

/-- END (rule R201): the buffer is taken and cleared in every case, whatever the result; only the working registers of
Decode and the port change beside. `Feed(0xC0)` is the same. -/
def Obligations.EndClearsTheBufferInEveryCase : Prop :=
  ∀ s : State, ∃ (n : Nat) (o : List Byte) (r : Result) (log : List (Nat × Result)),
    exec .endMark s = .next { s with
      rxbuf := [], rxdrop := false, i := n, out := o, result := r, rxLog := log, rxIndex := s.rxIndex + 1 } ∧
    exec (.feed 0xC0#8) s = exec .endMark s

/-- Short buffer (rule R202): fewer than 3 raw bytes are discarded silently, whatever their values. Nothing is
reported: no payload, no error. A buffer of exactly 3 raw bytes is decoded: it has a result. -/
def Obligations.ShortStretchIsSilent : Prop :=
  ∀ s : State,
    (s.rxbuf.length < 3 →
      exec (.feed 0xC0#8) s = .next { s with
        rxbuf := [], rxdrop := false, result := .none, rxIndex := s.rxIndex + 1 }) ∧
    (s.rxdrop = false → s.rxbuf.length = 3 →
      ∃ t : State, exec (.feed 0xC0#8) s = .next t ∧ t.rxbuf = [] ∧ t.result ≠ .none)

/-- Buffer of 3 or more raw bytes (rule R203): the result of Decode on it, as a payload or as the framing error, once, on
`rx_out`. -/
def Obligations.LongStretchIsDecoded : Prop :=
  ∀ s u : State, s.rxdrop = false → 3 ≤ s.rxbuf.length → exec (.decode s.rxbuf) s = .next u →
    ∃ r : Result,
      ((∃ p, u.result = .ok p ∧ r = .payload p) ∨ (∃ e, u.result = .error e ∧ r = .error e)) ∧
      exec (.feed 0xC0#8) s = .next { s with
        rxbuf := [], i := u.i, out := u.out, result := r,
        rxLog := s.rxLog ++ [(s.rxIndex, r)], rxIndex := s.rxIndex + 1 }

/-- DATA (rule R204): with room in the buffer and nothing being dropped, each of the 255 values other than END is appended
unchanged, ESC, ESC_END and ESC_ESC included, with no result. Every byte already in the buffer stays where it is. -/
def Obligations.DataIsAppendedUnchanged : Prop :=
  ∀ (s : State) (b : Byte), b ≠ 0xC0#8 → s.rxdrop = false →
    (∀ m, s.params.maxFrame = some m → s.rxbuf.length < m) →
    exec (.data b) s = .next { s with
      rxbuf := s.rxbuf ++ [b], result := .none, rxIndex := s.rxIndex + 1 } ∧
    exec (.feed b) s = exec (.data b) s

/-- Overflow (rule R205, decision D3): with a finite MAX_FRAME the byte that overflows clears the buffer and reports
OversizeError once; what follows is discarded with no result; the next END ends the drop with no result. The row DATA
(rule R90) is the same. -/
def Obligations.OverflowDropsUntilTheNextEnd : Prop :=
  ∀ (s : State) (m : Nat) (b : Byte), s.params.maxFrame = some m → b ≠ 0xC0#8 →
    exec (.data b) s = exec (.feed b) s ∧
    (s.rxdrop = false → s.rxbuf.length = m →
      exec (.feed b) s = .next { s with
        rxbuf := [], rxdrop := true, result := .error .frameTooLong,
        rxLog := s.rxLog ++ [(s.rxIndex, .error .frameTooLong)], rxIndex := s.rxIndex + 1 }) ∧
    (s.rxdrop = true →
      exec (.feed b) s = .next { s with result := .none, rxIndex := s.rxIndex + 1 } ∧
      exec (.feed 0xC0#8) s = .next { s with
        rxbuf := [], rxdrop := false, result := .none, rxIndex := s.rxIndex + 1 })

/-- Each Feed gives at most one result, and one other than `none` only for an END byte or, with a finite MAX_FRAME, for
the byte that overflows (rule R207, which the spec derives from rule R200). -/
def Obligations.ResultsComeOnlyAtEndOrOverflow : Prop :=
  ∀ (b : Byte) (s : State), ∃ t : State, exec (.feed b) s = .next t ∧
    t.rxIndex = s.rxIndex + 1 ∧
    ((t.result = .none ∧ t.rxLog = s.rxLog) ∨
      (t.result ≠ .none ∧ t.rxLog = s.rxLog ++ [(s.rxIndex, t.result)] ∧
        (b = 0xC0#8 ∨ (t.result = .error .frameTooLong ∧ s.params.maxFrame = some s.rxbuf.length))))

/-- One well-formed frame (rule R209, which the spec derives from rule R200, rule R129 and rule R122): from a clean
receiver, feeding the frame of non-empty data yields exactly one result, the payload, at the final byte, and leaves the
buffer empty; within a finite MAX_FRAME, or with none. -/
def Obligations.OneFrameYieldsOnePayload : Prop :=
  ∀ (s a e : State) (d p f : List Byte), s.rxbuf = [] → s.rxdrop = false → d ≠ [] →
    exec (.appendChecksum d) s = .next a → a.result = .bytes p →
    exec (.encode p) s = .next e → e.result = .bytes f →
    (∀ m, s.params.maxFrame = some m → f.length - 2 ≤ m) →
    ∃ t : State, Host.Core.run core f.length (s.withScript [.feed f]) = .next t ∧
      t.rxbuf = [] ∧ t.rxdrop = false ∧ t.result = .payload p ∧
      t.rxLog = s.rxLog ++ [(s.rxIndex + f.length - 1, .payload p)] ∧ t.txLog = s.txLog

/-- Loop-back (rule R255, which the spec derives from rule R209 and rule R156): feeding the frame of non-empty commands
to a clean receiver and checking the payload it yields gives the commands back. -/
def Obligations.LoopBackReturnsTheCommands : Prop :=
  ∀ (s t : State) (cs f : List Byte), s.rxbuf = [] → s.rxdrop = false → cs ≠ [] →
    exec (.encodeCommand cs) s = .next t → t.result = .bytes f →
    (∀ m, s.params.maxFrame = some m → f.length - 2 ≤ m) →
    ∃ (u v : State) (p : List Byte),
      Host.Core.run core f.length (s.withScript [.feed f]) = .next u ∧ u.result = .payload p ∧
      u.rxLog = s.rxLog ++ [(s.rxIndex + f.length - 1, .payload p)] ∧
      exec (.checkPayload p) u = .next v ∧ v.result = .content cs

/-- No result depends on anything but the bytes fed since the previous END and MAX_FRAME (rule R214): after an END, two
receivers with the same MAX_FRAME, whatever they held before, give the same result for every byte that follows and hold
the same. -/
def Obligations.AnEndSeparatesWhatFollowsFromWhatWent : Prop :=
  ∀ (s₁ s₂ t₁ t₂ : State) (bytes : List Byte), s₁.params.maxFrame = s₂.params.maxFrame → bytes ≠ [] →
    exec (.feed 0xC0#8) s₁ = .next t₁ → exec (.feed 0xC0#8) s₂ = .next t₂ →
    ∃ u₁ u₂ : State,
      Host.Core.run core bytes.length (t₁.withScript [.feed bytes]) = .next u₁ ∧
      Host.Core.run core bytes.length (t₂.withScript [.feed bytes]) = .next u₂ ∧
      u₁.result = u₂.result ∧ u₁.rxbuf = u₂.rxbuf ∧ u₁.rxdrop = u₂.rxdrop

/-! ### The Telemetry Decoder -/

/-- DecodeEventByte (rule R230): bit 6 clear is padding; else the low five bits are the button and bit 7 the kind. Nothing
else changes, and bit 5 does not enter. -/
def Obligations.EventByteIsReadByItsBits : Prop :=
  ∀ (b : Byte) (s : State), ∃ e : Option Event,
    exec (.decodeEventByte b) s = .next { s with result := .event e } ∧
    (b.getLsbD 6 = false → e = none) ∧
    (b.getLsbD 6 = true → ∃ ev, e = some ev ∧ ev.button.val = b.toNat % 32 ∧
      (ev.kind = .release ↔ b.getLsbD 7 = true))

/-- DecodeTelemetry (rule R232, rule R234): below 32 bytes the error and no partial record; else the events of the first
32 bytes in slot order, one for each with bit 6 set, and the Output State of the next four bytes when they are all
there. Beside the result only the working registers of the loop change. -/
def Obligations.TelemetryIsEventsAndOutputState : Prop :=
  (∀ (c : List Byte) (s : State), c.length < 32 →
    exec (.decodeTelemetry c) s = .next { s with result := .error .telemetryTooShort }) ∧
  (∀ (region tail : List Byte) (s : State), region.length = 32 →
    ∃ (n : Nat) (evs : List Event) (out : Option OutputState),
      exec (.decodeTelemetry (region ++ tail)) s = .next { s with
        i := n, events := evs, result := .record { events := evs, out := out } } ∧
      evs = region.flatMap (fun b => if b.getLsbD 6 then
        [{ button := Fin.ofNat 32 b.toNat, kind := if b.getLsbD 7 then .release else .press }] else []) ∧
      (tail.length < 4 → out = none) ∧
      (∀ (b0 b1 b2 b3 : Byte) (more : List Byte), tail = b0 :: b1 :: b2 :: b3 :: more →
        out = some ⟨b0, b1, b2, b3⟩))

/-- The Event Byte rows (rule R84, rule R232): a press or a release of the button in the row's index bits is emitted,
padding is skipped. Clause by clause: the content read and unread is shorter than 32 bytes; there are more of the 32
slots to come; and this is the last slot, after which the record is complete, with the Output State of the bytes that
follow (rule R234). That the length is tested at every row is the model's reading (notes/assumptions/6.md). -/
def Obligations.EventRowsFillTheSlots : Prop :=
  ∀ (s : State) (row : Instr) (emitted : List Event) (b7 b5 : Bool) (idx low : BitVec 5),
    ((row = .evtPress b5 idx ∧ emitted = [{ button := Fin.ofNat 32 idx.toNat, kind := .press }]) ∨
      (row = .evtRelease b5 idx ∧ emitted = [{ button := Fin.ofNat 32 idx.toNat, kind := .release }]) ∨
      (row = .evtPad b7 b5 low ∧ emitted = [])) →
    (s.i + 1 + s.unread.length < 32 →
      exec row s = .next { s with ctx := .stream, unread := [], result := .error .telemetryTooShort }) ∧
    (s.i < 31 → 32 ≤ s.i + 1 + s.unread.length →
      exec row s = .next { s with i := s.i + 1, events := s.events ++ emitted, result := .none }) ∧
    (31 ≤ s.i → ∃ out : Option OutputState,
      exec row s = .next { s with
        i := s.i + 1, events := s.events ++ emitted, ctx := .stream, unread := [],
        result := .record { events := s.events ++ emitted, out := out } } ∧
      (s.unread.length < 4 → out = none) ∧
      (∀ (o0 o1 o2 o3 : Byte) (more : List Byte), s.unread = o0 :: o1 :: o2 :: o3 :: more →
        out = some ⟨o0, o1, o2, o3⟩))

/-- Reading a content row by row is DecodeTelemetry (rule R84, rule R232): the same record or the same error, and the same
working registers. That a row is a step of its own, and what the index holds after the loop, are the model's choice
(notes/assumptions/6.md). -/
def Obligations.RowByRowTelemetryIsDecodeTelemetry : Prop :=
  ∀ (s : State) (c : List Byte), c ≠ [] →
    Host.Core.run core c.length ((s.withScript []).beginSequence .telemetry c) =
      exec (.decodeTelemetry c) ((s.withScript []).beginSequence .stream [])

/-! ### The receive pipeline and the errors -/

/-- CheckPayload (rule R251, decision D10): below 2 bytes ShortFrameError; a payload that does not verify ChecksumError;
else the content without the two checksum bytes. It completes on every payload in every state, and only the working
register `crc` changes. In the last clause the outcome is given by Compute of the content; in the one before, by
Verify. -/
def Obligations.CheckPayloadStripsTheChecksum : Prop :=
  (∀ (p : List Byte) (s : State), p.length < 2 →
    exec (.checkPayload p) s = .next { s with result := .error .noChecksumField }) ∧
  (∀ (d : List Byte) (hi lo : Byte) (s v : State), exec (.verify (d ++ [hi, lo])) s = .next v →
    (v.result = .bool true →
      exec (.checkPayload (d ++ [hi, lo])) s = .next { s with crc := v.crc, result := .content d }) ∧
    (v.result = .bool false →
      exec (.checkPayload (d ++ [hi, lo])) s = .next { s with crc := v.crc, result := .error .mismatch })) ∧
  (∀ (d : List Byte) (hi lo : Byte) (s : State), ∃ c : U16,
    exec (.compute d) s = .next { s with crc := c, result := .word c } ∧
    exec (.checkPayload (d ++ [hi, lo])) s = .next { s with
      crc := c,
      result := if c = (hi.setWidth 16 <<< 8) ||| lo.setWidth 16 then .content d else .error .mismatch })

/-- RxStep (rule R253): it completes on every byte in every state. It is Feed; an error or nothing is passed on; a payload
goes through CheckPayload, and its content through DecodeTelemetry. Of the receiver it writes only what Feed writes. -/
def Obligations.RxStepIsFeedThenCheckThenDecode : Prop :=
  ∀ (b : Byte) (s : State), ∃ t v : State,
    exec (.feed b) s = .next t ∧ exec (.rxStep b) s = .next v ∧
    v.rxbuf = t.rxbuf ∧ v.rxdrop = t.rxdrop ∧ v.rxIndex = t.rxIndex ∧
    v.params = s.params ∧ v.txLog = s.txLog ∧ v.script = s.script ∧ v.ctx = s.ctx ∧ v.unread = s.unread ∧
    (t.result = .none → v = t) ∧
    (∀ e, t.result = .error e → v = t) ∧
    (∀ p : List Byte, t.result = .payload p → ∃ u : State, exec (.checkPayload p) t = .next u ∧
      v.rxLog = s.rxLog ++ [(s.rxIndex, v.result)] ∧
      (∀ e, u.result = .error e → v.result = .error e) ∧
      (∀ c : List Byte, u.result = .content c → ∃ w : State,
        exec (.decodeTelemetry c) u = .next w ∧ v.result = w.result)) ∧
    (t.result = .none ∨ (∃ e, t.result = .error e) ∨ (∃ p, t.result = .payload p))

/-- The order of the checks (rule R266): one frame reports at most one error, the first one met. Clause by clause: the
overflowing byte; END after an oversized frame; fewer than 3 raw bytes; Decode; the length of the payload, which
cannot fail after these; the checksum; the length of the content; and a record when every check passes. -/
def Obligations.TheFirstFailingCheckIsReported : Prop :=
  ∀ s : State,
    (∀ b : Byte, b ≠ 0xC0#8 → s.rxdrop = false → s.params.maxFrame = some s.rxbuf.length →
      ∃ t, exec (.rxStep b) s = .next t ∧ t.result = .error .frameTooLong) ∧
    (s.rxdrop = true → ∃ t, exec (.rxStep 0xC0#8) s = .next t ∧ t.result = .none) ∧
    (s.rxbuf.length < 3 → ∃ t, exec (.rxStep 0xC0#8) s = .next t ∧ t.result = .none) ∧
    (∀ u, s.rxdrop = false → 3 ≤ s.rxbuf.length → exec (.decode s.rxbuf) s = .next u →
      (∀ e, u.result = .error e → ∃ t, exec (.rxStep 0xC0#8) s = .next t ∧ t.result = .error e) ∧
      (∀ p v, u.result = .ok p → exec (.verify p) s = .next v →
        2 ≤ p.length ∧
        (v.result = .bool false → ∃ t, exec (.rxStep 0xC0#8) s = .next t ∧ t.result = .error .mismatch) ∧
        (v.result = .bool true → p.length - 2 < 32 →
          ∃ t, exec (.rxStep 0xC0#8) s = .next t ∧ t.result = .error .telemetryTooShort) ∧
        (v.result = .bool true → 32 ≤ p.length - 2 →
          ∃ t r, exec (.rxStep 0xC0#8) s = .next t ∧ t.result = .record r)))

/-- In the receive pipeline ShortFrameError(no_checksum_field) cannot occur (rule R252, which the spec derives from rule
R212). -/
def Obligations.NoChecksumFieldIsUnreachable : Prop :=
  ∀ (b : Byte) (s t : State), exec (.rxStep b) s = .next t → t.result ≠ .error .noChecksumField

/-- After any error the receiver is ACCUMULATING with an empty buffer, or, after OversizeError, DROPPING until the next
END (rule R268): of Feed and of RxStep, in every state. -/
def Obligations.ErrorsLeaveACleanReceiver : Prop :=
  ∀ (b : Byte) (s t : State) (e : FrameError),
    (exec (.feed b) s = .next t ∨ exec (.rxStep b) s = .next t) → t.result = .error e →
      t.rxbuf = [] ∧ (t.rxdrop = true ↔ e = .frameTooLong)

/-- The numbers of the errors (rule R260, decision D7): class codes 1 to 4, the sub-code of each cause, and 0 for a result
that is no error. -/
def Obligations.ErrorCodesFollowTheTable : Prop :=
  (FrameError.truncatedEscape.errorClass.code, FrameError.truncatedEscape.subCode) = (1, 0) ∧
  (FrameError.malformedEscapeTarget.errorClass.code, FrameError.malformedEscapeTarget.subCode) = (1, 1) ∧
  (FrameError.mismatch.errorClass.code, FrameError.mismatch.subCode) = (2, 0) ∧
  (FrameError.noChecksumField.errorClass.code, FrameError.noChecksumField.subCode) = (3, 0) ∧
  (FrameError.telemetryTooShort.errorClass.code, FrameError.telemetryTooShort.subCode) = (3, 1) ∧
  (FrameError.frameTooLong.errorClass.code, FrameError.frameTooLong.subCode) = (4, 0) ∧
  (∀ r : Result, r.errorCode = 0 ↔ ∀ e, r ≠ .error e)

/-! ### The whole machine -/

/-- Reset (rule R300, decision D4): the buffer and the drop flag are cleared, from DROPPING too, with no result; the
parameters, the logs and everything else stay, but that byte indices count from the last reset (rule R99). -/
def Obligations.ResetClearsTheReceiver : Prop :=
  ∀ s : State, exec .reset s = .next { s with rxbuf := [], rxdrop := false, rxIndex := 0, result := .unit }

/-- Every step keeps the receiver's invariant: no END in the buffer (rule R20), an empty buffer while dropping and no
dropping without a bound (rule R21), at most MAX_FRAME bytes (rule R61), legal parameters (rule R4). -/
def Obligations.EveryStepKeepsTheReceiverInvariant : Prop :=
  ∀ s t : State, ReceiverInv s → step s = .next t → ReceiverInv t

/-- The state after reset meets the invariant, with an empty buffer and no drop (rule R30, decision D4); the parameters
are unbounded (the model's choice among the values rule R4 leaves open, notes/assumptions/1.md), and the working
registers zero and empty (the model's choice, notes/assumptions/2.md). -/
def Obligations.ResetStateIsClean : Prop :=
  ReceiverInv State.reset ∧ Clean State.reset ∧ State.reset.params.maxFrame = none ∧
    State.reset.params.maxTxContent = none ∧ State.reset.crc = 0#16 ∧ State.reset.i = 0 ∧
    State.reset.out = [] ∧ State.reset.events = []

/-- Only Feed, RxStep, Reset and the rows END and DATA touch the receiver (rule R20, rule R22, rule R33): every other
instruction leaves the buffer, every byte of it, the drop flag and the receive log as they were. No instruction but
EncodeCommand and the row CMD.TOGGLE writes the transmit log, and none writes the parameters (rule R301, decision D4). -/
def Obligations.OnlyTheReceivePathTouchesTheReceiver : Prop :=
  ∀ (i : Instr) (s t : State), exec i s = .next t →
    ((∀ b, i ≠ .data b ∧ i ≠ .feed b ∧ i ≠ .rxStep b) → i ≠ .endMark → i ≠ .reset →
      t.rxbuf = s.rxbuf ∧ t.rxdrop = s.rxdrop ∧ t.rxLog = s.rxLog ∧ t.rxIndex = s.rxIndex) ∧
    ((∀ cs, i ≠ .encodeCommand cs) → (∀ b7 b5 idx, i ≠ .cmdToggle b7 b5 idx) → t.txLog = s.txLog) ∧
    t.script = s.script ∧ t.params = s.params

/-- The frame of the operations (rule R22, rule R23, rule R31): which working register each may write, and that none
touches the sequence being read. -/
def Obligations.OperationsWriteOnlyTheirWorkingRegisters : Prop :=
  ∀ (i : Instr) (s t : State), encode i = none → exec i s = .next t →
    t.ctx = s.ctx ∧ t.unread = s.unread ∧
    ((∀ d, i ≠ .compute d ∧ i ≠ .appendChecksum d ∧ i ≠ .verify d ∧ i ≠ .encodeCommand d ∧ i ≠ .checkPayload d) →
      (∀ b, i ≠ .rxStep b) → t.crc = s.crc) ∧
    ((∀ f, i ≠ .decode f ∧ i ≠ .decodeTelemetry f) → (∀ b, i ≠ .feed b ∧ i ≠ .rxStep b) → t.i = s.i) ∧
    ((∀ f, i ≠ .decode f) → (∀ b, i ≠ .feed b ∧ i ≠ .rxStep b) → t.out = s.out) ∧
    ((∀ c, i ≠ .decodeTelemetry c) → (∀ b, i ≠ .rxStep b) → t.events = s.events)

/-- No operation reads `crc`, `i` or `out` before it initialises them (rule R31, which the spec derives from rule R23):
whatever they hold, an operation gives the same result, the same receiver and the same logs. -/
def Obligations.WorkingRegistersAreDeadBetweenOperations : Prop :=
  ∀ (op : Instr) (s t : State) (c : U16) (n : Nat) (o : List Byte) (e : List Event),
    encode op = none → exec op s = .next t →
      ∃ t' : State, exec op { s with crc := c, i := n, out := o, events := e } = .next t' ∧
        t'.result = t.result ∧ t'.rxbuf = t.rxbuf ∧ t'.rxdrop = t.rxdrop ∧
        t'.txLog = t.txLog ∧ t'.rxLog = t.rxLog ∧ t'.rxIndex = t.rxIndex

/-- Results are one-shot (rule R317): "the block keeps no copy", so no instruction depends on the result of the one
before it. -/
def Obligations.NoInstructionReadsTheLastResult : Prop :=
  ∀ (i : Instr) (s : State) (r : Result), exec i { s with result := r } = exec i s

/-- No rule reads HANDSHAKE (rule R4, decision D2): changing it changes nothing else. -/
def Obligations.NothingReadsTheHandshake : Prop :=
  ∀ (s : State) (h : Nat),
    (∀ t, step s = .next t →
      step { s with params := { s.params with handshake := h } } =
        .next { t with params := { t.params with handshake := h } }) ∧
    (∀ r, step s = .refused r → step { s with params := { s.params with handshake := h } } = .refused r)

/-- The two paths share no state (rule R1, rule R8): a transmit and a receive step commute, whether the receive step is
RxStep or, in a block used up to Feed, Feed (rule R306). In either order the receiver, the two logs and the byte index are
the same. -/
def Obligations.TransmitAndReceiveCommute : Prop :=
  ∀ (s t₁ t₂ : State) (cs : List Byte) (b : Byte) (receive : Instr),
    (receive = .rxStep b ∨ receive = .feed b) →
    exec (.encodeCommand cs) s = .next t₁ → exec receive t₁ = .next t₂ →
      ∃ u₁ u₂ : State, exec receive s = .next u₁ ∧ exec (.encodeCommand cs) u₁ = .next u₂ ∧
        u₁.result = t₂.result ∧ u₂.result = t₁.result ∧
        u₂.rxbuf = t₂.rxbuf ∧ u₂.rxdrop = t₂.rxdrop ∧ u₂.txLog = t₂.txLog ∧
        u₂.rxLog = t₂.rxLog ∧ u₂.rxIndex = t₂.rxIndex
end

