-- ==== Sys2Proof/Laws/State.lean ====
section
/-! SUPPORT. One lemma per field per update of State, true by rfl: no later proof unfolds a record update. -/

namespace Sys2Proof.Machine

open Sys2Proof

variable (s : State)

/-! ### appendRaw -/

@[simp] theorem appendRaw_params (b : Byte) : (s.appendRaw b).params = s.params := rfl
@[simp] theorem appendRaw_rxbuf (b : Byte) : (s.appendRaw b).rxbuf = s.rxbuf ++ [b] := rfl
@[simp] theorem appendRaw_rxdrop (b : Byte) : (s.appendRaw b).rxdrop = s.rxdrop := rfl
@[simp] theorem appendRaw_crc (b : Byte) : (s.appendRaw b).crc = s.crc := rfl
@[simp] theorem appendRaw_i (b : Byte) : (s.appendRaw b).i = s.i := rfl
@[simp] theorem appendRaw_out (b : Byte) : (s.appendRaw b).out = s.out := rfl
@[simp] theorem appendRaw_events (b : Byte) : (s.appendRaw b).events = s.events := rfl
@[simp] theorem appendRaw_ctx (b : Byte) : (s.appendRaw b).ctx = s.ctx := rfl
@[simp] theorem appendRaw_unread (b : Byte) : (s.appendRaw b).unread = s.unread := rfl
@[simp] theorem appendRaw_script (b : Byte) : (s.appendRaw b).script = s.script := rfl
@[simp] theorem appendRaw_result (b : Byte) : (s.appendRaw b).result = s.result := rfl
@[simp] theorem appendRaw_txLog (b : Byte) : (s.appendRaw b).txLog = s.txLog := rfl
@[simp] theorem appendRaw_rxLog (b : Byte) : (s.appendRaw b).rxLog = s.rxLog := rfl
@[simp] theorem appendRaw_rxIndex (b : Byte) : (s.appendRaw b).rxIndex = s.rxIndex := rfl

/-! ### clearReceiver -/

@[simp] theorem clearReceiver_params : (s.clearReceiver).params = s.params := rfl
@[simp] theorem clearReceiver_rxbuf : (s.clearReceiver).rxbuf = [] := rfl
@[simp] theorem clearReceiver_rxdrop : (s.clearReceiver).rxdrop = false := rfl
@[simp] theorem clearReceiver_crc : (s.clearReceiver).crc = s.crc := rfl
@[simp] theorem clearReceiver_i : (s.clearReceiver).i = s.i := rfl
@[simp] theorem clearReceiver_out : (s.clearReceiver).out = s.out := rfl
@[simp] theorem clearReceiver_events : (s.clearReceiver).events = s.events := rfl
@[simp] theorem clearReceiver_ctx : (s.clearReceiver).ctx = s.ctx := rfl
@[simp] theorem clearReceiver_unread : (s.clearReceiver).unread = s.unread := rfl
@[simp] theorem clearReceiver_script : (s.clearReceiver).script = s.script := rfl
@[simp] theorem clearReceiver_result : (s.clearReceiver).result = s.result := rfl
@[simp] theorem clearReceiver_txLog : (s.clearReceiver).txLog = s.txLog := rfl
@[simp] theorem clearReceiver_rxLog : (s.clearReceiver).rxLog = s.rxLog := rfl
@[simp] theorem clearReceiver_rxIndex : (s.clearReceiver).rxIndex = s.rxIndex := rfl

/-! ### startDropping -/

@[simp] theorem startDropping_params : (s.startDropping).params = s.params := rfl
@[simp] theorem startDropping_rxbuf : (s.startDropping).rxbuf = [] := rfl
@[simp] theorem startDropping_rxdrop : (s.startDropping).rxdrop = true := rfl
@[simp] theorem startDropping_crc : (s.startDropping).crc = s.crc := rfl
@[simp] theorem startDropping_i : (s.startDropping).i = s.i := rfl
@[simp] theorem startDropping_out : (s.startDropping).out = s.out := rfl
@[simp] theorem startDropping_events : (s.startDropping).events = s.events := rfl
@[simp] theorem startDropping_ctx : (s.startDropping).ctx = s.ctx := rfl
@[simp] theorem startDropping_unread : (s.startDropping).unread = s.unread := rfl
@[simp] theorem startDropping_script : (s.startDropping).script = s.script := rfl
@[simp] theorem startDropping_result : (s.startDropping).result = s.result := rfl
@[simp] theorem startDropping_txLog : (s.startDropping).txLog = s.txLog := rfl
@[simp] theorem startDropping_rxLog : (s.startDropping).rxLog = s.rxLog := rfl
@[simp] theorem startDropping_rxIndex : (s.startDropping).rxIndex = s.rxIndex := rfl

/-! ### answer -/

@[simp] theorem answer_params (r : Result) : (s.answer r).params = s.params := rfl
@[simp] theorem answer_rxbuf (r : Result) : (s.answer r).rxbuf = s.rxbuf := rfl
@[simp] theorem answer_rxdrop (r : Result) : (s.answer r).rxdrop = s.rxdrop := rfl
@[simp] theorem answer_crc (r : Result) : (s.answer r).crc = s.crc := rfl
@[simp] theorem answer_i (r : Result) : (s.answer r).i = s.i := rfl
@[simp] theorem answer_out (r : Result) : (s.answer r).out = s.out := rfl
@[simp] theorem answer_events (r : Result) : (s.answer r).events = s.events := rfl
@[simp] theorem answer_ctx (r : Result) : (s.answer r).ctx = s.ctx := rfl
@[simp] theorem answer_unread (r : Result) : (s.answer r).unread = s.unread := rfl
@[simp] theorem answer_script (r : Result) : (s.answer r).script = s.script := rfl
@[simp] theorem answer_result (r : Result) : (s.answer r).result = r := rfl
@[simp] theorem answer_txLog (r : Result) : (s.answer r).txLog = s.txLog := rfl
@[simp] theorem answer_rxLog (r : Result) : (s.answer r).rxLog = s.rxLog := rfl
@[simp] theorem answer_rxIndex (r : Result) : (s.answer r).rxIndex = s.rxIndex := rfl

/-! ### raise -/

@[simp] theorem raise_params (e : FrameError) : (s.raise e).params = s.params := rfl
@[simp] theorem raise_rxbuf (e : FrameError) : (s.raise e).rxbuf = s.rxbuf := rfl
@[simp] theorem raise_rxdrop (e : FrameError) : (s.raise e).rxdrop = s.rxdrop := rfl
@[simp] theorem raise_crc (e : FrameError) : (s.raise e).crc = s.crc := rfl
@[simp] theorem raise_i (e : FrameError) : (s.raise e).i = s.i := rfl
@[simp] theorem raise_out (e : FrameError) : (s.raise e).out = s.out := rfl
@[simp] theorem raise_events (e : FrameError) : (s.raise e).events = s.events := rfl
@[simp] theorem raise_ctx (e : FrameError) : (s.raise e).ctx = s.ctx := rfl
@[simp] theorem raise_unread (e : FrameError) : (s.raise e).unread = s.unread := rfl
@[simp] theorem raise_script (e : FrameError) : (s.raise e).script = s.script := rfl
@[simp] theorem raise_result (e : FrameError) : (s.raise e).result = .error e := rfl
@[simp] theorem raise_txLog (e : FrameError) : (s.raise e).txLog = s.txLog := rfl
@[simp] theorem raise_rxLog (e : FrameError) : (s.raise e).rxLog = s.rxLog := rfl
@[simp] theorem raise_rxIndex (e : FrameError) : (s.raise e).rxIndex = s.rxIndex := rfl

/-! ### deliver -/

@[simp] theorem deliver_params (r : Result) : (s.deliver r).params = s.params := rfl
@[simp] theorem deliver_rxbuf (r : Result) : (s.deliver r).rxbuf = s.rxbuf := rfl
@[simp] theorem deliver_rxdrop (r : Result) : (s.deliver r).rxdrop = s.rxdrop := rfl
@[simp] theorem deliver_crc (r : Result) : (s.deliver r).crc = s.crc := rfl
@[simp] theorem deliver_i (r : Result) : (s.deliver r).i = s.i := rfl
@[simp] theorem deliver_out (r : Result) : (s.deliver r).out = s.out := rfl
@[simp] theorem deliver_events (r : Result) : (s.deliver r).events = s.events := rfl
@[simp] theorem deliver_ctx (r : Result) : (s.deliver r).ctx = s.ctx := rfl
@[simp] theorem deliver_unread (r : Result) : (s.deliver r).unread = s.unread := rfl
@[simp] theorem deliver_script (r : Result) : (s.deliver r).script = s.script := rfl
@[simp] theorem deliver_result (r : Result) : (s.deliver r).result = r := rfl
@[simp] theorem deliver_txLog (r : Result) : (s.deliver r).txLog = s.txLog := rfl
@[simp] theorem deliver_rxLog (r : Result) : (s.deliver r).rxLog = rxLogged s.rxLog s.rxIndex r := rfl
@[simp] theorem deliver_rxIndex (r : Result) : (s.deliver r).rxIndex = s.rxIndex + 1 := rfl

/-! ### transmit -/

@[simp] theorem transmit_params (f : List Byte) : (s.transmit f).params = s.params := rfl
@[simp] theorem transmit_rxbuf (f : List Byte) : (s.transmit f).rxbuf = s.rxbuf := rfl
@[simp] theorem transmit_rxdrop (f : List Byte) : (s.transmit f).rxdrop = s.rxdrop := rfl
@[simp] theorem transmit_crc (f : List Byte) : (s.transmit f).crc = s.crc := rfl
@[simp] theorem transmit_i (f : List Byte) : (s.transmit f).i = s.i := rfl
@[simp] theorem transmit_out (f : List Byte) : (s.transmit f).out = s.out := rfl
@[simp] theorem transmit_events (f : List Byte) : (s.transmit f).events = s.events := rfl
@[simp] theorem transmit_ctx (f : List Byte) : (s.transmit f).ctx = s.ctx := rfl
@[simp] theorem transmit_unread (f : List Byte) : (s.transmit f).unread = s.unread := rfl
@[simp] theorem transmit_script (f : List Byte) : (s.transmit f).script = s.script := rfl
@[simp] theorem transmit_result (f : List Byte) : (s.transmit f).result = .bytes f := rfl
@[simp] theorem transmit_txLog (f : List Byte) : (s.transmit f).txLog = s.txLog ++ [f] := rfl
@[simp] theorem transmit_rxLog (f : List Byte) : (s.transmit f).rxLog = s.rxLog := rfl
@[simp] theorem transmit_rxIndex (f : List Byte) : (s.transmit f).rxIndex = s.rxIndex := rfl

/-! ### beginSequence -/

@[simp] theorem beginSequence_params (c : Context) (bs : List Byte) : (s.beginSequence c bs).params = s.params := rfl
@[simp] theorem beginSequence_rxbuf (c : Context) (bs : List Byte) : (s.beginSequence c bs).rxbuf = s.rxbuf := rfl
@[simp] theorem beginSequence_rxdrop (c : Context) (bs : List Byte) : (s.beginSequence c bs).rxdrop = s.rxdrop := rfl
@[simp] theorem beginSequence_crc (c : Context) (bs : List Byte) : (s.beginSequence c bs).crc = Config.crcInit := rfl
@[simp] theorem beginSequence_i (c : Context) (bs : List Byte) : (s.beginSequence c bs).i = 0 := rfl
@[simp] theorem beginSequence_out (c : Context) (bs : List Byte) : (s.beginSequence c bs).out = [] := rfl
@[simp] theorem beginSequence_events (c : Context) (bs : List Byte) : (s.beginSequence c bs).events = [] := rfl
@[simp] theorem beginSequence_ctx (c : Context) (bs : List Byte) : (s.beginSequence c bs).ctx = c := rfl
@[simp] theorem beginSequence_unread (c : Context) (bs : List Byte) : (s.beginSequence c bs).unread = bs := rfl
@[simp] theorem beginSequence_script (c : Context) (bs : List Byte) : (s.beginSequence c bs).script = s.script := rfl
@[simp] theorem beginSequence_result (c : Context) (bs : List Byte) : (s.beginSequence c bs).result = s.result := rfl
@[simp] theorem beginSequence_txLog (c : Context) (bs : List Byte) : (s.beginSequence c bs).txLog = s.txLog := rfl
@[simp] theorem beginSequence_rxLog (c : Context) (bs : List Byte) : (s.beginSequence c bs).rxLog = s.rxLog := rfl
@[simp] theorem beginSequence_rxIndex (c : Context) (bs : List Byte) : (s.beginSequence c bs).rxIndex = s.rxIndex := rfl

/-! ### endSequence -/

@[simp] theorem endSequence_params : (s.endSequence).params = s.params := rfl
@[simp] theorem endSequence_rxbuf : (s.endSequence).rxbuf = s.rxbuf := rfl
@[simp] theorem endSequence_rxdrop : (s.endSequence).rxdrop = s.rxdrop := rfl
@[simp] theorem endSequence_crc : (s.endSequence).crc = s.crc := rfl
@[simp] theorem endSequence_i : (s.endSequence).i = s.i := rfl
@[simp] theorem endSequence_out : (s.endSequence).out = s.out := rfl
@[simp] theorem endSequence_events : (s.endSequence).events = s.events := rfl
@[simp] theorem endSequence_ctx : (s.endSequence).ctx = .stream := rfl
@[simp] theorem endSequence_unread : (s.endSequence).unread = [] := rfl
@[simp] theorem endSequence_script : (s.endSequence).script = s.script := rfl
@[simp] theorem endSequence_result : (s.endSequence).result = s.result := rfl
@[simp] theorem endSequence_txLog : (s.endSequence).txLog = s.txLog := rfl
@[simp] theorem endSequence_rxLog : (s.endSequence).rxLog = s.rxLog := rfl
@[simp] theorem endSequence_rxIndex : (s.endSequence).rxIndex = s.rxIndex := rfl

/-! ### scanned -/

@[simp] theorem scanned_params (r : ScanEnd) : (s.scanned r).params = s.params := rfl
@[simp] theorem scanned_rxbuf (r : ScanEnd) : (s.scanned r).rxbuf = s.rxbuf := rfl
@[simp] theorem scanned_rxdrop (r : ScanEnd) : (s.scanned r).rxdrop = s.rxdrop := rfl
@[simp] theorem scanned_crc (r : ScanEnd) : (s.scanned r).crc = s.crc := rfl
@[simp] theorem scanned_i (r : ScanEnd) : (s.scanned r).i = r.i := rfl
@[simp] theorem scanned_out (r : ScanEnd) : (s.scanned r).out = r.out := rfl
@[simp] theorem scanned_events (r : ScanEnd) : (s.scanned r).events = s.events := rfl
@[simp] theorem scanned_ctx (r : ScanEnd) : (s.scanned r).ctx = s.ctx := rfl
@[simp] theorem scanned_unread (r : ScanEnd) : (s.scanned r).unread = s.unread := rfl
@[simp] theorem scanned_script (r : ScanEnd) : (s.scanned r).script = s.script := rfl
@[simp] theorem scanned_result (r : ScanEnd) : (s.scanned r).result = s.result := rfl
@[simp] theorem scanned_txLog (r : ScanEnd) : (s.scanned r).txLog = s.txLog := rfl
@[simp] theorem scanned_rxLog (r : ScanEnd) : (s.scanned r).rxLog = s.rxLog := rfl
@[simp] theorem scanned_rxIndex (r : ScanEnd) : (s.scanned r).rxIndex = s.rxIndex := rfl

/-! ### backToScan -/

@[simp] theorem backToScan_params : (s.backToScan).params = s.params := rfl
@[simp] theorem backToScan_rxbuf : (s.backToScan).rxbuf = s.rxbuf := rfl
@[simp] theorem backToScan_rxdrop : (s.backToScan).rxdrop = s.rxdrop := rfl
@[simp] theorem backToScan_crc : (s.backToScan).crc = s.crc := rfl
@[simp] theorem backToScan_i : (s.backToScan).i = s.i := rfl
@[simp] theorem backToScan_out : (s.backToScan).out = s.out := rfl
@[simp] theorem backToScan_events : (s.backToScan).events = s.events := rfl
@[simp] theorem backToScan_ctx : (s.backToScan).ctx = .scan := rfl
@[simp] theorem backToScan_unread : (s.backToScan).unread = s.unread := rfl
@[simp] theorem backToScan_script : (s.backToScan).script = s.script := rfl
@[simp] theorem backToScan_result : (s.backToScan).result = s.result := rfl
@[simp] theorem backToScan_txLog : (s.backToScan).txLog = s.txLog := rfl
@[simp] theorem backToScan_rxLog : (s.backToScan).rxLog = s.rxLog := rfl
@[simp] theorem backToScan_rxIndex : (s.backToScan).rxIndex = s.rxIndex := rfl

/-! ### checked -/

@[simp] theorem checked_params (p : List Byte) : (s.checked p).params = s.params := rfl
@[simp] theorem checked_rxbuf (p : List Byte) : (s.checked p).rxbuf = s.rxbuf := rfl
@[simp] theorem checked_rxdrop (p : List Byte) : (s.checked p).rxdrop = s.rxdrop := rfl
@[simp] theorem checked_crc (p : List Byte) : (s.checked p).crc = verifyCrc s.crc p := rfl
@[simp] theorem checked_i (p : List Byte) : (s.checked p).i = s.i := rfl
@[simp] theorem checked_out (p : List Byte) : (s.checked p).out = s.out := rfl
@[simp] theorem checked_events (p : List Byte) : (s.checked p).events = s.events := rfl
@[simp] theorem checked_ctx (p : List Byte) : (s.checked p).ctx = s.ctx := rfl
@[simp] theorem checked_unread (p : List Byte) : (s.checked p).unread = s.unread := rfl
@[simp] theorem checked_script (p : List Byte) : (s.checked p).script = s.script := rfl
@[simp] theorem checked_result (p : List Byte) : (s.checked p).result = s.result := rfl
@[simp] theorem checked_txLog (p : List Byte) : (s.checked p).txLog = s.txLog := rfl
@[simp] theorem checked_rxLog (p : List Byte) : (s.checked p).rxLog = s.rxLog := rfl
@[simp] theorem checked_rxIndex (p : List Byte) : (s.checked p).rxIndex = s.rxIndex := rfl

/-! ### withScript -/

@[simp] theorem withScript_params (l : List Stmt) : (s.withScript l).params = s.params := rfl
@[simp] theorem withScript_rxbuf (l : List Stmt) : (s.withScript l).rxbuf = s.rxbuf := rfl
@[simp] theorem withScript_rxdrop (l : List Stmt) : (s.withScript l).rxdrop = s.rxdrop := rfl
@[simp] theorem withScript_crc (l : List Stmt) : (s.withScript l).crc = s.crc := rfl
@[simp] theorem withScript_i (l : List Stmt) : (s.withScript l).i = s.i := rfl
@[simp] theorem withScript_out (l : List Stmt) : (s.withScript l).out = s.out := rfl
@[simp] theorem withScript_events (l : List Stmt) : (s.withScript l).events = s.events := rfl
@[simp] theorem withScript_ctx (l : List Stmt) : (s.withScript l).ctx = .stream := rfl
@[simp] theorem withScript_unread (l : List Stmt) : (s.withScript l).unread = [] := rfl
@[simp] theorem withScript_script (l : List Stmt) : (s.withScript l).script = l := rfl
@[simp] theorem withScript_result (l : List Stmt) : (s.withScript l).result = s.result := rfl
@[simp] theorem withScript_txLog (l : List Stmt) : (s.withScript l).txLog = s.txLog := rfl
@[simp] theorem withScript_rxLog (l : List Stmt) : (s.withScript l).rxLog = s.rxLog := rfl
@[simp] theorem withScript_rxIndex (l : List Stmt) : (s.withScript l).rxIndex = s.rxIndex := rfl

end Sys2Proof.Machine
end

