-- ==== Sys2Proof/Laws/Command.lean ====
section
/-! SUPPORT. What the Command Encoder can do, said once. -/

namespace Sys2Proof.Machine

open Sys2Proof

theorem exceedsTxContent_iff (p : Config.Params) (n : Nat) :
    exceedsTxContent p n = true ↔ ∃ m, p.maxTxContent = some m ∧ m < n := by
  unfold exceedsTxContent
  cases p.maxTxContent <;> simp

theorem execMkToggle_next (idx : Nat) (s t : State) :
    execMkToggle idx s = .next t ↔ idx ≤ 31 ∧ t = { s with result := .byte (toggleByte idx) } := by
  unfold execMkToggle
  split
  · simp only [reduceCtorEq, false_iff, not_and]; omega
  · rename_i h
    simp only [Host.Outcome.next.injEq, Nat.le_of_not_lt h, true_and]
    exact eq_comm

theorem execEncodeCommand_next (cs : List Byte) (s t : State) :
    execEncodeCommand cs s = .next t ↔ exceedsTxContent s.params cs.length = false ∧
      t = { s with crc := compute cs, result := .bytes (commandFrame cs), txLog := s.txLog ++ [commandFrame cs] } := by
  unfold execEncodeCommand
  split
  · rename_i h; simp [h]
  · rename_i h
    simp only [Host.Outcome.next.injEq, Bool.not_eq_true] at h ⊢
    rw [h]
    simp only [true_and]
    exact eq_comm

/-- Everything one marshalled byte can do when it is not refused. -/
theorem marshalByte_next (b : Byte) (s t : State) (h : marshalByte b s = .next t) :
    exceedsTxContent s.params (s.i + 1 + s.unread.length) = false ∧
    ((s.unread ≠ [] ∧ t = { s with i := s.i + 1, out := s.out ++ [b], crc := crcByte s.crc b, result := .none }) ∨
     (s.unread = [] ∧ ∃ f : List Byte, t = { s with
        i := s.i + 1, out := s.out ++ [b], crc := crcByte s.crc b, ctx := .stream, unread := [],
        result := .bytes f, txLog := s.txLog ++ [f] })) := by
  unfold marshalByte at h
  split at h
  · cases h
  · rename_i he
    refine ⟨Bool.not_eq_true _ ▸ he, ?_⟩
    split at h
    · rename_i hu; cases h; exact .inr ⟨hu, _, rfl⟩
    · rename_i hu; cases h; exact .inl ⟨hu, rfl⟩

end Sys2Proof.Machine
end

