-- ==== Sys2Proof/Laws/Framing.lean ====
section
/-! SUPPORT. The loop of Decode one case at a time, an induction over its cases, and the turns of a scan read row by row. -/

namespace Sys2Proof.Machine

open Sys2Proof

/-! ### The cases of the loop (rule R124) -/

theorem scan_nil (i : Nat) (out : List Byte) : scan [] i out = { i := i, out := out, error := none } := rfl

theorem scan_literal (b : Byte) (rest : List Byte) (i : Nat) (out : List Byte) (h : b ≠ Config.escByte) :
    scan (b :: rest) i out = scan rest (i + 1) (out ++ [b]) := by
  cases rest <;> simp [scan, h]

theorem scan_pairEnd (rest : List Byte) (i : Nat) (out : List Byte) :
    scan (Config.escByte :: Config.escEndByte :: rest) i out = scan rest (i + 2) (out ++ [Config.endByte]) := by
  rw [scan, if_pos rfl, if_pos rfl]

theorem scan_pairEsc (rest : List Byte) (i : Nat) (out : List Byte) :
    scan (Config.escByte :: Config.escEscByte :: rest) i out = scan rest (i + 2) (out ++ [Config.escByte]) := by
  rw [scan, if_pos rfl, if_neg (by decide), if_pos rfl]

theorem scan_badTarget (t : Byte) (rest : List Byte) (i : Nat) (out : List Byte)
    (h₁ : t ≠ Config.escEndByte) (h₂ : t ≠ Config.escEscByte) :
    scan (Config.escByte :: t :: rest) i out = { i := i, out := out, error := some .malformedEscapeTarget } := by
  rw [scan, if_pos rfl, if_neg h₁, if_neg h₂]

theorem scan_truncated (i : Nat) (out : List Byte) :
    scan [Config.escByte] i out = { i := i, out := out, error := some .truncatedEscape } := by
  rw [scan, if_pos rfl]

/-- Induction over the cases of the loop. -/
theorem scan_induction {P : List Byte → Prop} (nil : P [])
    (literal : ∀ b rest, b ≠ Config.escByte → P rest → P (b :: rest))
    (pairEnd : ∀ rest, P rest → P (Config.escByte :: Config.escEndByte :: rest))
    (pairEsc : ∀ rest, P rest → P (Config.escByte :: Config.escEscByte :: rest))
    (badTarget : ∀ t rest, t ≠ Config.escEndByte → t ≠ Config.escEscByte → P (Config.escByte :: t :: rest))
    (truncated : P [Config.escByte]) (f : List Byte) : P f := by
  suffices h : ∀ n (f : List Byte), f.length ≤ n → P f from h f.length f (Nat.le_refl _)
  intro n
  induction n with
  | zero => intro f hf; rw [List.length_eq_zero_iff.mp (Nat.le_zero.mp hf)]; exact nil
  | succ n ih =>
    intro f hf
    match f with
    | [] => exact nil
    | [b] =>
      by_cases hb : b = Config.escByte
      · rw [hb]; exact truncated
      · exact literal b [] hb nil
    | b :: t :: rest =>
      simp only [List.length_cons] at hf
      by_cases hb : b = Config.escByte
      · by_cases h₁ : t = Config.escEndByte
        · rw [hb, h₁]; exact pairEnd rest (ih rest (by omega))
        · by_cases h₂ : t = Config.escEscByte
          · rw [hb, h₂]; exact pairEsc rest (ih rest (by omega))
          · rw [hb]; exact badTarget t rest h₁ h₂
      · exact literal b _ hb (ih _ (by simp; omega))

/-! ### The turns of a scan read row by row -/

/-- Everything an output byte can do. -/
theorem scanEmit_cases (s : State) (v : Byte) (n : Nat) :
    (s.unread = [] ∧ s.scanEmit v n =
      { s with i := s.i + n, out := s.out ++ [v], ctx := .stream, result := .ok (s.out ++ [v]) }) ∨
    (s.unread ≠ [] ∧ s.scanEmit v n = { s with i := s.i + n, out := s.out ++ [v], result := .none }) := by
  by_cases h : s.unread = []
  · exact .inl ⟨h, by cases s; simp only at h; subst h; rfl⟩
  · exact .inr ⟨h, by simp only [State.scanEmit, if_neg h]; rfl⟩

/-- What no turn of a scan touches: the receiver, the checksum register, the events, the logs and the script. -/
theorem scanEmit_frame (s : State) (v : Byte) (n : Nat) :
    (s.scanEmit v n).params = s.params ∧ (s.scanEmit v n).rxbuf = s.rxbuf ∧ (s.scanEmit v n).rxdrop = s.rxdrop ∧
    (s.scanEmit v n).crc = s.crc ∧ (s.scanEmit v n).events = s.events ∧ (s.scanEmit v n).script = s.script ∧
    (s.scanEmit v n).txLog = s.txLog ∧ (s.scanEmit v n).rxLog = s.rxLog ∧
    (s.scanEmit v n).rxIndex = s.rxIndex := by
  rcases scanEmit_cases s v n with ⟨-, h⟩ | ⟨-, h⟩ <;> simp [h]

end Sys2Proof.Machine
end

