-- ==== Sys2Proof/Laws/Memory.lean ====
section
/-! SUPPORT. The laws of the accumulation buffer as a memory: which form it has, what each operation on it does to that form
and to a read, and that its cells are strictly rising and determine it. -/

namespace Sys2Proof.Machine

open Sys2Proof

/-! ### The form -/

theorem memory_wf_nil : Memory.wf [] = true := rfl

/-- The form says exactly that no byte is END (rule R20). -/
theorem memory_wf_iff (m : Memory) : Memory.wf m = true ↔ Config.endByte ∉ m := by
  simp only [Memory.wf, List.all_eq_true, bne_iff_ne]
  exact ⟨fun h hm => h _ hm rfl, fun h b hb hc => h (hc ▸ hb)⟩

theorem memory_wf_append (m : Memory) (b : Byte) :
    Memory.wf (Memory.append m b) = (Memory.wf m && b != Config.endByte) := by
  simp [Memory.wf, Memory.append]

/-- Appending a byte other than END keeps the form (rule R204). -/
theorem appendRaw_wf (s : State) (b : Byte) (hm : Memory.wf s.rxbuf = true) (hb : b ≠ Config.endByte) :
    Memory.wf (s.appendRaw b).rxbuf = true := by
  rw [State.appendRaw, memory_wf_append, hm]
  simpa using hb

/-- Taking or clearing the buffer keeps the form (rule R201, rule R300). -/
theorem clearReceiver_wf (s : State) : Memory.wf s.clearReceiver.rxbuf = true := rfl

/-- Clearing on overflow keeps the form (rule R205). -/
theorem startDropping_wf (s : State) : Memory.wf s.startDropping.rxbuf = true := rfl

theorem reset_memory_wf : Memory.wf State.reset.rxbuf = true := rfl

/-! ### Reads -/

/-- A read is defined exactly inside the buffer (section 5.2 of spec/00_scope.md). -/
theorem memory_read_isSome (m : Memory) (addr n : Nat) :
    (Memory.read m addr n).isSome = true ↔ addr + n ≤ m.length := by
  unfold Memory.read
  split <;> simp_all

/-- A read inside the buffer is unchanged by an append: no rule overwrites a byte in place (rule R54). -/
theorem memory_read_append (m : Memory) (b : Byte) (addr n : Nat) (h : addr + n ≤ m.length) :
    Memory.read (Memory.append m b) addr n = Memory.read m addr n := by
  have hl : addr + n ≤ (m ++ [b]).length := by simp; omega
  have hd : n ≤ (m.drop addr).length := by simp; omega
  rw [Memory.read, Memory.read, Memory.append, if_pos h, if_pos hl,
    List.drop_append_of_le_length (by omega), List.take_append_of_le_length hd]

/-- The byte appended is read back at the old length. -/
theorem memory_read_last (m : Memory) (b : Byte) : Memory.read (Memory.append m b) m.length 1 = some [b] := by
  simp [Memory.read, Memory.append]

/-! ### The buffer as cells -/

theorem cellsFrom_bounds (m : Memory) (base : Nat) (c : Host.Cell) (h : c ∈ Memory.cellsFrom base m) :
    base ≤ c.1 ∧ c.1 < base + m.length := by
  induction m generalizing base with
  | nil => simp [Memory.cellsFrom] at h
  | cons b rest ih =>
    rcases List.mem_cons.mp h with rfl | h
    · simp
    · have := ih _ h
      simp only [List.length_cons]
      omega

/-- The addresses of the cells rise strictly. -/
theorem cells_rising (m : Memory) : (Memory.cells m).Pairwise (fun c d => c.1 < d.1) := by
  suffices h : ∀ base, (Memory.cellsFrom base m).Pairwise (fun c d => c.1 < d.1) from h 0
  induction m with
  | nil => intro base; exact List.Pairwise.nil
  | cons b rest ih =>
    intro base
    exact List.Pairwise.cons (fun d hd => Nat.lt_of_succ_le (cellsFrom_bounds rest _ d hd).1) (ih _)

/-- Equal cells are equal buffers: the sequence is its own canonical form. -/
theorem cells_injective (m n : Memory) (h : Memory.cells m = Memory.cells n) : m = n := by
  suffices k : ∀ base, Memory.cellsFrom base m = Memory.cellsFrom base n → m = n from k 0 h
  clear h
  induction m generalizing n with
  | nil => intro base h; cases n <;> simp_all [Memory.cellsFrom]
  | cons b rest ih =>
    intro base h
    cases n with
    | nil => simp [Memory.cellsFrom] at h
    | cons c more =>
      simp only [Memory.cellsFrom, List.cons.injEq, Prod.mk.injEq, true_and] at h
      rw [h.1, ih more _ h.2]

end Sys2Proof.Machine
end

