-- ==== Sys2Proof/Laws/PerInstr.lean ====
section
/-! SUPPORT. Statements made of every instruction, one lemma per constructor.

`EncLen`: a row's raw bytes are as many as the `match` and `encoding` columns of spec/opcode_table.json give it, one byte in
every context but the escaped payload, whose pairs have two (rule R81); an operation has no raw bytes (rule R100). -/

namespace Sys2Proof.Laws

open Sys2Proof

/-- The length in bytes of a row of a context. -/
def EncLen.bytesOf (ctx : Context) : Nat :=
  match ctx with
  | .stream => 1
  | .scan => 1
  | .afterEsc => 1
  | .escaped => 2
  | .outbound => 1
  | .telemetry => 1

/-- The encoder's bytes are as many as the row has. -/
def EncLen.Statement (i : Instr) : Prop :=
  ∀ (ctx : Context) (bytes : List Byte), encode i = some (ctx, bytes) → bytes.length = EncLen.bytesOf ctx

theorem EncLen.endMark : EncLen.Statement .endMark := by rintro _ _ ⟨⟩; rfl
theorem EncLen.data (b : Byte) : EncLen.Statement (.data b) := by rintro _ _ ⟨⟩; rfl
theorem EncLen.esc : EncLen.Statement .esc := by rintro _ _ ⟨⟩; rfl
theorem EncLen.rawEnd : EncLen.Statement .rawEnd := by rintro _ _ ⟨⟩; rfl
theorem EncLen.lit (b : Byte) : EncLen.Statement (.lit b) := by rintro _ _ ⟨⟩; rfl
theorem EncLen.escEnd : EncLen.Statement .escEnd := by rintro _ _ ⟨⟩; rfl
theorem EncLen.escEsc : EncLen.Statement .escEsc := by rintro _ _ ⟨⟩; rfl
theorem EncLen.badEsc (b : Byte) : EncLen.Statement (.badEsc b) := by rintro _ _ ⟨⟩; rfl
theorem EncLen.pairEnd : EncLen.Statement .pairEnd := by rintro _ _ ⟨⟩; rfl
theorem EncLen.pairEsc : EncLen.Statement .pairEsc := by rintro _ _ ⟨⟩; rfl
theorem EncLen.cmdToggle (b7 b5 : Bool) (idx : BitVec 5) : EncLen.Statement (.cmdToggle b7 b5 idx) := by
  rintro _ _ ⟨⟩; rfl
theorem EncLen.evtPress (b5 : Bool) (idx : BitVec 5) : EncLen.Statement (.evtPress b5 idx) := by rintro _ _ ⟨⟩; rfl
theorem EncLen.evtRelease (b5 : Bool) (idx : BitVec 5) : EncLen.Statement (.evtRelease b5 idx) := by
  rintro _ _ ⟨⟩; rfl
theorem EncLen.evtPad (b7 b5 : Bool) (low : BitVec 5) : EncLen.Statement (.evtPad b7 b5 low) := by
  rintro _ _ ⟨⟩; rfl
theorem EncLen.encode (payload : List Byte) : EncLen.Statement (.encode payload) := by rintro _ _ ⟨⟩
theorem EncLen.decode (raw : List Byte) : EncLen.Statement (.decode raw) := by rintro _ _ ⟨⟩
theorem EncLen.compute (content : List Byte) : EncLen.Statement (.compute content) := by rintro _ _ ⟨⟩
theorem EncLen.appendChecksum (content : List Byte) : EncLen.Statement (.appendChecksum content) := by
  rintro _ _ ⟨⟩
theorem EncLen.verify (payload : List Byte) : EncLen.Statement (.verify payload) := by rintro _ _ ⟨⟩
theorem EncLen.mkToggle (idx : Nat) : EncLen.Statement (.mkToggle idx) := by rintro _ _ ⟨⟩
theorem EncLen.encodeCommand (commands : List Byte) : EncLen.Statement (.encodeCommand commands) := by
  rintro _ _ ⟨⟩
theorem EncLen.feed (b : Byte) : EncLen.Statement (.feed b) := by rintro _ _ ⟨⟩
theorem EncLen.decodeEventByte (b : Byte) : EncLen.Statement (.decodeEventByte b) := by rintro _ _ ⟨⟩
theorem EncLen.decodeTelemetry (content : List Byte) : EncLen.Statement (.decodeTelemetry content) := by
  rintro _ _ ⟨⟩
theorem EncLen.checkPayload (payload : List Byte) : EncLen.Statement (.checkPayload payload) := by rintro _ _ ⟨⟩
theorem EncLen.rxStep (b : Byte) : EncLen.Statement (.rxStep b) := by rintro _ _ ⟨⟩
theorem EncLen.reset : EncLen.Statement .reset := by rintro _ _ ⟨⟩

end Sys2Proof.Laws
end

