-- ==== Sys2Proof/Laws/Receiver.lean ====
section
/-! SUPPORT. What one Feed can do, said once (rule R200 to rule R205), and what no Feed touches. -/

namespace Sys2Proof.Machine

open Sys2Proof

/-! ### The cases -/

/-- Everything END can do. -/
theorem feedEnd_cases (s : State) :
    ((s.rxdrop = true ∨ s.rxbuf.length < 3) ∧ feedEnd s = (s.clearReceiver, .none)) ∨
    (s.rxdrop = false ∧ 3 ≤ s.rxbuf.length ∧
      feedEnd s = (s.clearReceiver.scanned (decodeRaw s.rxbuf), payloadResult (decodeRaw s.rxbuf))) := by
  cases hd : s.rxdrop
  · cases hs : shortStretch s.rxbuf
    · exact .inr ⟨rfl, by simpa [shortStretch, Config.minRawLen] using hs, by simp [feedEnd, hd, hs]⟩
    · exact .inl ⟨.inr (by simpa [shortStretch, Config.minRawLen] using hs), by simp [feedEnd, hd, hs]⟩
  · exact .inl ⟨.inl rfl, by simp [feedEnd, hd]⟩

theorem bufferFull_iff (p : Config.Params) (m : Memory) : bufferFull p m = true ↔ p.maxFrame = some m.length := by
  unfold bufferFull
  cases p.maxFrame with
  | none => simp
  | some k => simp only [beq_iff_eq, Option.some.injEq]; exact eq_comm

/-- Everything a byte other than END can do. -/
theorem feedData_cases (b : Byte) (s : State) :
    (s.rxdrop = true ∧ feedData b s = (s, .none)) ∨
    (s.rxdrop = false ∧ s.params.maxFrame = some s.rxbuf.length ∧
      feedData b s = (s.startDropping, .error .frameTooLong)) ∨
    (s.rxdrop = false ∧ s.params.maxFrame ≠ some s.rxbuf.length ∧ feedData b s = (s.appendRaw b, .none)) := by
  cases hd : s.rxdrop
  · by_cases hf : bufferFull s.params s.rxbuf = true
    · exact .inr (.inl ⟨rfl, (bufferFull_iff _ _).mp hf, by simp [feedData, hd, hf]⟩)
    · exact .inr (.inr ⟨rfl, fun h => hf ((bufferFull_iff _ _).mpr h), by simp [feedData, hd, hf]⟩)
  · exact .inl ⟨rfl, by simp [feedData, hd]⟩

theorem feedByte_end (s : State) : feedByte Config.endByte s = feedEnd s := if_pos rfl

theorem feedByte_data (b : Byte) (s : State) (h : b ≠ Config.endByte) : feedByte b s = feedData b s := if_neg h

/-! ### The frame -/

/-- What no Feed touches: everything but the receiver and the working registers of Decode. -/
theorem feedByte_frame (b : Byte) (s : State) :
    (feedByte b s).1.params = s.params ∧ (feedByte b s).1.crc = s.crc ∧ (feedByte b s).1.events = s.events ∧
    (feedByte b s).1.ctx = s.ctx ∧ (feedByte b s).1.unread = s.unread ∧ (feedByte b s).1.script = s.script ∧
    (feedByte b s).1.result = s.result ∧ (feedByte b s).1.txLog = s.txLog ∧
    (feedByte b s).1.rxLog = s.rxLog ∧ (feedByte b s).1.rxIndex = s.rxIndex := by
  unfold feedByte
  split
  · rcases feedEnd_cases s with ⟨-, h⟩ | ⟨-, -, h⟩ <;> simp [h]
  · rcases feedData_cases b s with ⟨-, h⟩ | ⟨-, -, h⟩ | ⟨-, -, h⟩ <;> simp [h]

/-- Only the drop flag, the buffer and MAX_FRAME enter what a Feed does to the receiver and what it answers (rule
R214). -/
theorem feedByte_reads (b : Byte) (s t : State) (hp : s.params.maxFrame = t.params.maxFrame)
    (hb : s.rxbuf = t.rxbuf) (hd : s.rxdrop = t.rxdrop) :
    (feedByte b s).2 = (feedByte b t).2 ∧ (feedByte b s).1.rxbuf = (feedByte b t).1.rxbuf ∧
      (feedByte b s).1.rxdrop = (feedByte b t).1.rxdrop := by
  have hf : bufferFull s.params t.rxbuf = bufferFull t.params t.rxbuf := by simp only [bufferFull, hp]
  simp only [feedByte, feedEnd, feedData, hb, hd, hf]
  split <;> split
  · simp
  · split <;> simp
  · simp [hb, hd]
  · split <;> simp [hb, hd]

/-! ### Batches -/

@[simp] theorem fedAll_nil (s : State) : s.fedAll [] = s := rfl

@[simp] theorem fedAll_cons (s : State) (b : Byte) (bs : List Byte) : s.fedAll (b :: bs) = (s.fed b).fedAll bs := rfl

/-! ### The log -/

theorem rxLogged_none (log : List (Nat × Result)) (n : Nat) : rxLogged log n .none = log := rfl

theorem rxLogged_some (log : List (Nat × Result)) (n : Nat) (r : Result) (h : r ≠ .none) :
    rxLogged log n r = log ++ [(n, r)] := if_neg h

end Sys2Proof.Machine
end

