-- ==== Sys2Proof/Laws/Pipeline.lean ====
section
/-! SUPPORT. What the Telemetry Decoder and the receive pipeline touch, and the cases of RxStep. -/

namespace Sys2Proof.Machine

open Sys2Proof

/-! ### The Telemetry Decoder -/

/-- Everything one Event Byte row can do. -/
theorem eventSlot_cases (s : State) (e : Option Event) :
    (s.i + 1 + s.unread.length < 32 ∧
      s.eventSlot e = { s with ctx := .stream, unread := [], result := .error .telemetryTooShort }) ∨
    (32 ≤ s.i + 1 + s.unread.length ∧ s.i + 1 < 32 ∧
      s.eventSlot e = { s with i := s.i + 1, events := s.events ++ e.toList, result := .none }) ∨
    (32 ≤ s.i + 1 ∧
      s.eventSlot e = { s with
        i := s.i + 1, events := s.events ++ e.toList, ctx := .stream, unread := [],
        result := .record { events := s.events ++ e.toList, out := outputStateOf s.unread } }) := by
  unfold State.eventSlot
  split
  · rename_i h; exact .inl ⟨h, rfl⟩
  · rename_i h
    split
    · rename_i h'; exact .inr (.inl ⟨Nat.le_of_not_lt h, h', rfl⟩)
    · rename_i h'; exact .inr (.inr ⟨Nat.le_of_not_lt h', rfl⟩)

/-- DecodeTelemetry touches its working registers only. -/
theorem telemetryDone_frame (s : State) (c : List Byte) :
    (s.telemetryDone c).params = s.params ∧ (s.telemetryDone c).rxbuf = s.rxbuf ∧
    (s.telemetryDone c).rxdrop = s.rxdrop ∧ (s.telemetryDone c).crc = s.crc ∧ (s.telemetryDone c).out = s.out ∧
    (s.telemetryDone c).ctx = s.ctx ∧ (s.telemetryDone c).unread = s.unread ∧
    (s.telemetryDone c).script = s.script ∧ (s.telemetryDone c).result = s.result ∧
    (s.telemetryDone c).txLog = s.txLog ∧ (s.telemetryDone c).rxLog = s.rxLog ∧
    (s.telemetryDone c).rxIndex = s.rxIndex := by
  unfold State.telemetryDone
  split <;> simp

/-! ### The receive pipeline -/

/-- Everything CheckPayload can answer. -/
theorem checkResult_cases (p : List Byte) :
    (p.length < 2 ∧ checkResult p = .error .noChecksumField) ∨
    (2 ≤ p.length ∧ verify p = true ∧ checkResult p = .content (payloadContent p)) ∨
    (2 ≤ p.length ∧ verify p = false ∧ checkResult p = .error .mismatch) := by
  unfold checkResult
  split
  · rename_i h; exact .inl ⟨h, rfl⟩
  · rename_i h
    split
    · rename_i hv; exact .inr (.inl ⟨Nat.le_of_not_lt h, hv, rfl⟩)
    · rename_i hv; exact .inr (.inr ⟨Nat.le_of_not_lt h, by simpa using hv, rfl⟩)

/-- Everything a payload's check and decoding can answer, and the state they leave (rule R253). -/
theorem payloadStep_cases (p : List Byte) (s : State) :
    (∃ e, checkResult p = .error e ∧ payloadStep p s = (s.checked p, .error e)) ∨
    (∃ c, checkResult p = .content c ∧ payloadStep p s = ((s.checked p).telemetryDone c, telemetryResult c)) := by
  rcases checkResult_cases p with ⟨-, h⟩ | ⟨-, -, h⟩ | ⟨-, -, h⟩
  · exact .inl ⟨_, h, by simp [payloadStep, h]⟩
  · exact .inr ⟨_, h, by simp [payloadStep, h]⟩
  · exact .inl ⟨_, h, by simp [payloadStep, h]⟩

/-- The check and the decoding of a payload touch their working registers only. -/
theorem payloadStep_frame (p : List Byte) (s : State) :
    (payloadStep p s).1.params = s.params ∧ (payloadStep p s).1.rxbuf = s.rxbuf ∧
    (payloadStep p s).1.rxdrop = s.rxdrop ∧ (payloadStep p s).1.out = s.out ∧ (payloadStep p s).1.ctx = s.ctx ∧
    (payloadStep p s).1.unread = s.unread ∧ (payloadStep p s).1.script = s.script ∧
    (payloadStep p s).1.txLog = s.txLog ∧ (payloadStep p s).1.rxLog = s.rxLog ∧
    (payloadStep p s).1.rxIndex = s.rxIndex := by
  rcases payloadStep_cases p s with ⟨e, -, h⟩ | ⟨c, -, h⟩
  · simp only [h]
    exact ⟨rfl, rfl, rfl, rfl, rfl, rfl, rfl, rfl, rfl, rfl⟩
  · obtain ⟨h₁, h₂, h₃, -, h₄, h₅, h₆, h₇, -, h₈, h₉, h₁₀⟩ := telemetryDone_frame (s.checked p) c
    simp only [h]
    exact ⟨h₁, h₂, h₃, h₄, h₅, h₆, h₇, h₈, h₉, h₁₀⟩

/-- RxStep without a payload is Feed. -/
theorem rxByte_noPayload (b : Byte) (s : State) (h : ∀ p, (feedByte b s).2 ≠ .payload p) :
    rxByte b s = feedByte b s := by
  unfold rxByte
  split
  · rename_i p hp; exact absurd hp (h p)
  · rfl

/-- RxStep with a payload is the check and the decoding of that payload. -/
theorem rxByte_payload (b : Byte) (s : State) (p : List Byte) (h : (feedByte b s).2 = .payload p) :
    rxByte b s = payloadStep p (feedByte b s).1 := by
  simp [rxByte, h]

/-- Of the receiver RxStep writes what Feed writes; beside it, working registers only. -/
theorem rxByte_frame (b : Byte) (s : State) :
    (rxByte b s).1.rxbuf = (feedByte b s).1.rxbuf ∧ (rxByte b s).1.rxdrop = (feedByte b s).1.rxdrop ∧
    (rxByte b s).1.params = s.params ∧ (rxByte b s).1.ctx = s.ctx ∧ (rxByte b s).1.unread = s.unread ∧
    (rxByte b s).1.script = s.script ∧ (rxByte b s).1.txLog = s.txLog ∧ (rxByte b s).1.rxLog = s.rxLog ∧
    (rxByte b s).1.rxIndex = s.rxIndex := by
  have hf := feedByte_frame b s
  by_cases h : ∃ p, (feedByte b s).2 = .payload p
  · obtain ⟨p, h⟩ := h
    have := payloadStep_frame p (feedByte b s).1
    rw [rxByte_payload b s p h]
    simp [this, hf]
  · rw [rxByte_noPayload b s (fun p hp => h ⟨p, hp⟩)]
    simp [hf]

/-- The caller's script does not enter what RxStep does. -/
theorem rxByte_withScript (b : Byte) (s : State) (script : List Stmt) :
    rxByte b { s with script := script } = ({ (rxByte b s).1 with script := script }, (rxByte b s).2) := by
  have hf : feedByte b { s with script := script } =
      ({ (feedByte b s).1 with script := script }, (feedByte b s).2) := by
    simp only [feedByte, feedEnd, feedData]
    split <;> split <;> first | rfl | (split <;> rfl)
  by_cases h : ∃ p, (feedByte b s).2 = .payload p
  · obtain ⟨p, h⟩ := h
    rw [rxByte_payload b s p h, rxByte_payload b { s with script := script } p (by rw [hf]; exact h), hf]
    rcases payloadStep_cases p (feedByte b s).1 with ⟨e, hc, h'⟩ | ⟨c, hc, h'⟩ <;> rw [h']
    · simp [payloadStep, hc, State.checked]
    · simp only [payloadStep, hc, State.checked, State.telemetryDone]
      split <;> rfl
  · have hn : ∀ p, (feedByte b s).2 ≠ .payload p := fun p hp => h ⟨p, hp⟩
    rw [rxByte_noPayload b s hn, rxByte_noPayload b { s with script := script } (by rw [hf]; exact hn), hf]

@[simp] theorem rxAll_nil (s : State) : s.rxAll [] = s := rfl

@[simp] theorem rxAll_cons (s : State) (b : Byte) (bs : List Byte) :
    s.rxAll (b :: bs) = (s.rxStepped b).rxAll bs := rfl

end Sys2Proof.Machine
end

