-- ==== Sys2Proof/Laws/Step.lean ====
section
/-! SUPPORT. What a step runs, said once, and how a run goes on from a step. -/

namespace Sys2Proof.Machine

open Sys2Proof

/-! ### What is fetched -/

/-- Everything a statement of the script can begin: a call, which is no row of the context STREAM, or a move in the
script. The receiver and the parameters are as they were. -/
theorem fetchStmt_cases (st : Stmt) (s : State) :
    (∃ i s', fetchStmt st s = .instr i s' ∧ encode i = none ∧
      s'.params = s.params ∧ s'.rxbuf = s.rxbuf ∧ s'.rxdrop = s.rxdrop) ∨
    (∃ s', fetchStmt st s = .moved s' ∧ s'.params = s.params ∧ s'.rxbuf = s.rxbuf ∧ s'.rxdrop = s.rxdrop) := by
  cases st with
  | feed bytes => cases bytes <;> simp [fetchStmt, encode]
  | rx bytes => cases bytes <;> simp [fetchStmt, encode]
  | present ctx bytes =>
    cases bytes with
    | nil => cases ctx <;> simp [fetchStmt, emptySequence, encode]
    | cons b bs => simp [fetchStmt]
  | _ => simp [fetchStmt, encode]

/-- A byte to read that is a row of its context is fetched as that row. -/
theorem fetch_row (s : State) (i : Instr) (rest : List Byte) (h : decode s.ctx s.unread = .instr i rest) :
    fetch s = .instr i { s with unread := rest } := by
  simp [fetch, h]

/-- With no byte to read, the script is next. -/
theorem fetch_script (s : State) (h : s.unread = []) : fetch s = fetchScript s := by
  simp [fetch, h, decode]

/-! ### Runs -/

theorem run_next (k : Nat) (s t : State) (h : step s = .next t) :
    Host.Core.run core (k + 1) s = Host.Core.run core k t := by
  have h' : core.step s = .next t := h
  simp [Host.Core.run, h']

/-- A run of `a + b` steps goes on from the state after `a` steps. -/
theorem run_add (a b : Nat) (s t : State) (h : Host.Core.run core a s = .next t) :
    Host.Core.run core (a + b) s = Host.Core.run core b t := by
  induction a generalizing s with
  | zero => cases h; rw [Nat.zero_add]
  | succ a ih =>
    rw [Nat.add_right_comm]
    cases hs : core.step s with
    | next u =>
      simp only [Host.Core.run, hs] at h ⊢
      exact ih u h
    | fault r => simp [Host.Core.run, hs] at h
    | refused r => simp [Host.Core.run, hs] at h

end Sys2Proof.Machine
end

