-- ==== Sys2Proof/Tests/Slice0.lean ====
section
/-! SUPPORT. The model's own tests. Every expected value is a vector V<n> or an example of spec/95_test_vectors.md, or is
written out bit by bit from an encoding of spec/30_encoding.md; none is the model's own answer. The last section holds,
for each obligation with hypotheses, a state and operands that meet them. -/

namespace Sys2Proof.Machine.Tests

open Sys2Proof Sys2Proof.Machine

/-! ### Helpers -/

/-- The next state of an instruction, or the state itself where there is none. -/
def after (i : Instr) (s : State) : State :=
  match exec i s with
  | .next t => t
  | .fault _ => s
  | .refused _ => s

/-- The result an instruction gives in a state. -/
def gives (i : Instr) (s : State) : Result := (after i s).result

/-- The reset state with the receiver's buffer and a bound. -/
def receiver (bound : Option Nat) (buf : List Byte) (drop : Bool) : State :=
  { State.reset with
    params := { Config.Params.document with maxFrame := bound }
    rxbuf := buf
    rxdrop := drop }

/-- The reset state with a bound on the commands of a frame. -/
def sender (bound : Option Nat) : State :=
  { State.reset with params := { Config.Params.document with maxTxContent := bound } }

/-- The reset state in the middle of a sequence. -/
def reading (ctx : Context) (i : Nat) (out unread : List Byte) : State :=
  { State.reset with ctx := ctx, i := i, out := out, unread := unread }

/-! ### WellFormed: an ill-formed term for each check -/

theorem test_wf_data_end : (Instr.data 0xC0#8).wf = false := by decide

theorem test_wf_lit_esc : (Instr.lit 0xDB#8).wf = false := by decide

theorem test_wf_lit_end : (Instr.lit 0xC0#8).wf = false := by decide

theorem test_wf_badEsc_end : (Instr.badEsc 0xDC#8).wf = false := by decide

theorem test_wf_badEsc_esc : (Instr.badEsc 0xDD#8).wf = false := by decide

theorem test_wf_mkToggle_32 : (Instr.mkToggle 32).wf = false ∧ (Instr.mkToggle 31).wf = true := by decide

theorem test_wf_params :
    ({ Config.Params.document with maxFrame := some 2 } : Config.Params).wf = false ∧
      ({ Config.Params.document with maxFrame := some 3 } : Config.Params).wf = true := by decide

/-! ### Decode: words written out from the encodings of rule R81, R83, R84, R90, R91, R92 -/

theorem test_decode_endMark : decode .stream [0b11000000#8] = .instr .endMark [] := by decide

theorem test_decode_data : decode .stream [0b11011100#8] = .instr (.data 0xDC#8) [] := by decide

theorem test_decode_esc : decode .scan [0b11011011#8] = .instr .esc [] := by decide

theorem test_decode_rawEnd : decode .scan [0b11000000#8] = .instr .rawEnd [] := by decide

theorem test_decode_lit : decode .scan [0b01000000#8] = .instr (.lit 0x40#8) [] := by decide

theorem test_decode_escEnd : decode .afterEsc [0b11011100#8] = .instr .escEnd [] := by decide

theorem test_decode_escEsc : decode .afterEsc [0b11011101#8] = .instr .escEsc [] := by decide

theorem test_decode_badEsc : decode .afterEsc [0b11000000#8] = .instr (.badEsc 0xC0#8) [] := by decide

theorem test_decode_pairEnd : decode .escaped [0b11011011#8, 0b11011100#8] = .instr .pairEnd [] := by decide

theorem test_decode_pairEsc : decode .escaped [0b11011011#8, 0b11011101#8] = .instr .pairEsc [] := by decide

theorem test_decode_cmdToggle : decode .outbound [0b11100001#8] = .instr (.cmdToggle true true 1#5) [] := by decide

theorem test_decode_evtPress : decode .telemetry [0b01111111#8] = .instr (.evtPress true 31#5) [] := by decide

theorem test_decode_evtRelease : decode .telemetry [0b11000101#8] = .instr (.evtRelease false 5#5) [] := by decide

theorem test_decode_evtPad : decode .telemetry [0b10011111#8] = .instr (.evtPad true false 31#5) [] := by decide

theorem test_decode_command_bit6_clear :
    decode .outbound [0x00#8, 0x40#8] = .rejected (.undefinedCommandByte 0x00#8) := by decide

theorem test_decode_escaped_bad_pair : decode .escaped [0xDB#8, 0x41#8] = .instr .esc [0x41#8] := by decide

theorem test_table_word_end : decodeTableWord 8 0xC0 = some .endMark := by decide

theorem test_table_word_pair :
    decodeTableWord 16 0xDBDC = some .pairEnd ∧ decodeTableWord 16 0xDBDD = some .pairEsc := by decide

theorem test_table_word_toggle : decodeTableWord 8 0x58 = some (.cmdToggle false false 24#5) := by decide

/-- The frame of the one command 40 (V34). -/
theorem test_fetch_word_runs :
    (match step (State.reset.withFetchWord 8 0x40) with
      | .next t => t.txLog
      | .fault _ => []
      | .refused _ => []) = [[0xC0#8, 0x40#8, 0x48#8, 0xC4#8, 0xC0#8]] := by decide

/-! ### The Framing Codec -/

theorem test_encode_v7 :
    gives (.encode [0xC0#8, 0xDB#8, 0xDC#8, 0xDD#8]) State.reset = .bytes [0xC0#8, 0xDB#8, 0xDC#8, 0xDB#8, 0xDD#8, 0xDC#8, 0xDD#8, 0xC0#8] := by decide

theorem test_encode_v1 : gives (.encode []) State.reset = .bytes [0xC0#8, 0xC0#8] := by decide

theorem test_decode_v13 : gives (.decode [0xDB#8, 0xDD#8, 0xDC#8]) State.reset = .ok [0xDB#8, 0xDC#8] := by decide

theorem test_decode_v18 :
    gives (.decode [0x40#8, 0xDB#8, 0x41#8, 0xDB#8]) State.reset = .error .malformedEscapeTarget := by decide

theorem test_esc_v14 : gives .esc (reading .scan 0 [] []) = .error .truncatedEscape := by decide

theorem test_esc_opens_a_pair : (after .esc (reading .scan 0 [] [0xDC#8])).ctx = .afterEsc := by decide

theorem test_rawEnd_v19 : gives .rawEnd (reading .scan 1 [0x40#8] []) = .ok [0x40#8, 0xC0#8] := by decide

theorem test_lit :
    gives (.lit 0x41#8) (reading .scan 2 [0x40#8, 0xC0#8] []) = .ok [0x40#8, 0xC0#8, 0x41#8] := by decide

theorem test_escEnd_v11 : gives .escEnd (reading .afterEsc 0 [] []) = .ok [0xC0#8] := by decide

theorem test_escEsc_v12 : gives .escEsc (reading .afterEsc 0 [] []) = .ok [0xDB#8] := by decide

theorem test_escEsc_back_to_scan_v13 :
    (after .escEsc (reading .afterEsc 0 [] [0xDC#8])).ctx = .scan ∧
      (after .escEsc (reading .afterEsc 0 [] [0xDC#8])).i = 2 := by decide

theorem test_badEsc_v17 :
    gives (.badEsc 0xDB#8) (reading .afterEsc 0 [] [0xDC#8]) = .error .malformedEscapeTarget := by decide

theorem test_badEsc_last_v16 :
    gives (.badEsc 0x00#8) (reading .afterEsc 0 [] []) = .error .malformedEscapeTarget := by decide

theorem test_pairEnd_v11 : gives .pairEnd (reading .escaped 0 [] []) = .ok [0xC0#8] := by decide

theorem test_pairEsc_v12 : gives .pairEsc (reading .escaped 0 [] []) = .ok [0xDB#8] := by decide

/-! ### The Checksum Module -/

theorem test_compute_v20 :
    gives (.compute [0x31#8, 0x32#8, 0x33#8, 0x34#8, 0x35#8, 0x36#8, 0x37#8, 0x38#8, 0x39#8]) State.reset = .word 0x31C3#16 := by decide +kernel

theorem test_compute_v31 : gives (.compute [0x40#8, 0x41#8]) State.reset = .word 0x5529#16 := by decide +kernel

theorem test_compute_byteWise_v31 : computeByteWise [0x40#8, 0x45#8, 0x5F#8] = 0x448E#16 := by decide +kernel

theorem test_appendChecksum_v24 :
    gives (.appendChecksum [0x58#8]) State.reset = .bytes [0x58#8, 0xDB#8, 0xFD#8] := by decide +kernel

theorem test_verify_v26 : gives (.verify [0x40#8, 0x48#8, 0xC4#8]) State.reset = .bool true := by decide

theorem test_verify_v27 : gives (.verify [0x40#8, 0xC4#8, 0x48#8]) State.reset = .bool false := by decide

/-! ### The Command Encoder -/

theorem test_mkToggle_v33 : gives (.mkToggle 24) State.reset = .byte 0x58#8 := by decide

theorem test_mkToggle_32_refused_v33 : exec (.mkToggle 32) State.reset = .refused (.indexAbove31 32) := rfl

theorem test_encodeCommand_v38 :
    gives (.encodeCommand [0xC0#8, 0xDB#8]) State.reset = .bytes [0xC0#8, 0xDB#8, 0xDC#8, 0xDB#8, 0xDD#8, 0x6C#8, 0x42#8, 0xC0#8] := by decide +kernel

theorem test_encodeCommand_v36 :
    (after (.encodeCommand []) State.reset).txLog = [[0xC0#8, 0x00#8, 0x00#8, 0xC0#8]] := by decide

theorem test_cmdToggle_v34 :
    gives (.cmdToggle false false 0#5) (reading .outbound 0 [] []) = .bytes [0xC0#8, 0x40#8, 0x48#8, 0xC4#8, 0xC0#8] := by decide

/-- The register after the eight bit steps of V32. -/
theorem test_cmdToggle_more_to_come :
    (after (.cmdToggle false false 0#5) (reading .outbound 0 [] [0x41#8])).crc = 0x48C4#16 := by decide

/-! ### The Frame Receiver -/

theorem test_endMark_v40 :
    gives .endMark (receiver none [0x40#8, 0x48#8, 0xC4#8] false) = .payload [0x40#8, 0x48#8, 0xC4#8] := by decide

theorem test_endMark_v50 : gives .endMark (receiver none [0xDB#8] false) = .none := by decide

theorem test_data_v43 :
    (after (.data 0xC4#8) (receiver none [0x40#8, 0x48#8] false)).rxbuf = [0x40#8, 0x48#8, 0xC4#8] := by decide

theorem test_data_v95 :
    after (.data 0x07#8) (receiver (some 6) [0x01#8, 0x02#8, 0x03#8, 0x04#8, 0x05#8, 0x06#8] false) = { receiver (some 6) [] true with
      result := .error .frameTooLong, rxLog := [(0, .error .frameTooLong)], rxIndex := 1 } := by decide

theorem test_feed_v53 :
    gives (.feed 0xC0#8) (receiver none [0xDB#8, 0xDC#8, 0xDB#8] false) = .error .truncatedEscape := by decide

theorem test_feed_v52 :
    gives (.feed 0xC0#8) (receiver none [0xDB#8, 0xDC#8, 0x00#8] false) = .payload [0xC0#8, 0x00#8] := by decide

/-! ### The Telemetry Decoder -/

theorem test_decodeEventByte_v70 :
    gives (.decodeEventByte 0x41#8) State.reset = .event (some { button := 1, kind := .press }) := by decide

theorem test_decodeEventByte_v74 :
    gives (.decodeEventByte 0xDB#8) State.reset = .event (some { button := 27, kind := .release }) := by decide

theorem test_decodeTelemetry_v83 :
    gives (.decodeTelemetry ([0x41#8] ++ List.replicate 31 0x00#8 ++ [0x01#8, 0x02#8, 0x03#8, 0x04#8, 0x05#8])) State.reset = .record { events := [{ button := 1, kind := .press }], out := some ⟨0x01#8, 0x02#8, 0x03#8, 0x04#8⟩ } := by decide +kernel

theorem test_decodeTelemetry_v77 :
    gives (.decodeTelemetry (List.replicate 31 0x00#8)) State.reset = .error .telemetryTooShort := by decide +kernel

theorem test_evtPress_v80 :
    gives (.evtPress false 1#5) (reading .telemetry 31 [] []) = .record { events := [{ button := 1, kind := .press }], out := none } := by decide

theorem test_evtRelease_v84 :
    (after (.evtRelease false 5#5) (reading .telemetry 2 [] (List.replicate 29 0x00#8))).events =
      [{ button := 5, kind := .release }] := by decide +kernel

theorem test_evtPad_v75 :
    gives (.evtPad false false 0#5) (reading .telemetry 31 [] [0xDE#8, 0xAD#8, 0xBE#8, 0xEF#8]) = .record { events := [], out := some ⟨0xDE#8, 0xAD#8, 0xBE#8, 0xEF#8⟩ } := by decide

theorem test_evtPress_v77 :
    gives (.evtPress false 1#5) (reading .telemetry 0 [] (List.replicate 30 0x00#8)) = .error .telemetryTooShort := by decide +kernel

/-! ### The receive pipeline and Reset -/

theorem test_checkPayload_v60 :
    gives (.checkPayload [0x40#8, 0x48#8, 0xC4#8]) State.reset = .content [0x40#8] := by decide

theorem test_checkPayload_v61 : gives (.checkPayload [0x00#8]) State.reset = .error .noChecksumField := by decide

theorem test_rxStep_v62 :
    gives (.rxStep 0xC0#8) (receiver none [0x40#8, 0x48#8, 0xC4#8] false) = .error .telemetryTooShort := by decide

theorem test_rxStep_v44 :
    gives (.rxStep 0xC0#8) (receiver none (List.replicate 34 0x00#8) false) = .record { events := [], out := none } := by decide +kernel

theorem test_reset_v96 :
    after .reset (receiver (some 6) [] true) = { receiver (some 6) [] false with result := .unit } := by decide

/-! ### Witnesses: a state and operands that meet the hypotheses of each obligation -/

theorem witness_DecodeInvertsEncode :
    (Instr.badEsc 0xDB#8).wf = true ∧
      encode (.badEsc 0xDB#8) = some (.afterEsc, [0xDB#8]) :=
  ⟨by decide, rfl⟩

theorem witness_StepRunsTheDecodedRow :
    decode (reading .scan 0 [] [0xDB#8, 0xDC#8]).ctx (reading .scan 0 [] [0xDB#8, 0xDC#8]).unread =
      .instr .esc [0xDC#8] :=
  rfl

theorem witness_StepRunsTheCalledOperation :
    encode (.feed 0xC0#8) = none ∧
      State.reset.unread = [] ∧
      ({ State.reset with script := [.feed [0xC0#8], .reset] } : State).script = callOf (.feed 0xC0#8) ++ [.reset] :=
  ⟨rfl, rfl, rfl⟩

theorem witness_TableWordRunsAtTheNextStep :
    decodeTableWord 8 0x20 = some (.evtPad false true 0#5) :=
  by decide

theorem witness_NothingHappensWithoutACall :
    State.reset.unread = [] ∧
      State.reset.script = [] :=
  ⟨rfl, rfl⟩

theorem witness_FeedStatementFeedsEachByteInOrder :
    ([0xC0#8, 0x40#8] : List Byte) ≠ [] :=
  by decide

theorem witness_DecodeUndoesEncode :
    exec (.encode [0xC0#8, 0x00#8]) State.reset = .next (after (.encode [0xC0#8, 0x00#8]) State.reset) ∧
      (after (.encode [0xC0#8, 0x00#8]) State.reset).result = .bytes [0xC0#8, 0xDB#8, 0xDC#8, 0x00#8, 0xC0#8] :=
  ⟨rfl, by decide⟩

theorem witness_DecodeAcceptsExactlyEscapedPayloads :
    (0xC0#8 : Byte) ∉ [0xDB#8, 0xDC#8, 0x00#8] ∧
      exec (.decode [0xDB#8, 0xDC#8, 0x00#8]) State.reset = .next (after (.decode [0xDB#8, 0xDC#8, 0x00#8]) State.reset) ∧
      (after (.decode [0xDB#8, 0xDC#8, 0x00#8]) State.reset).result = .ok [0xC0#8, 0x00#8] :=
  ⟨by decide, rfl, by decide⟩

theorem witness_DecodedLength :
    exec (.decode [0xDB#8, 0xDC#8, 0x00#8]) State.reset = .next (after (.decode [0xDB#8, 0xDC#8, 0x00#8]) State.reset) ∧
      (after (.decode [0xDB#8, 0xDC#8, 0x00#8]) State.reset).result = .ok [0xC0#8, 0x00#8] ∧
      3 ≤ [0xDB#8, 0xDC#8, 0x00#8].length :=
  ⟨rfl, by decide, by decide⟩

theorem witness_DecodeRejectsABadEscape :
    exec (.decode [0xDB#8, 0xDC#8, 0x00#8]) State.reset = .next (after (.decode [0xDB#8, 0xDC#8, 0x00#8]) State.reset) ∧
      (after (.decode [0xDB#8, 0xDC#8, 0x00#8]) State.reset).result = .ok [0xC0#8, 0x00#8] ∧
      (0xDB#8 : Byte) ≠ 0xDC#8 ∧
      (0xDB#8 : Byte) ≠ 0xDD#8 :=
  ⟨rfl, by decide, by decide, by decide⟩

theorem witness_ScanRowsTakeOneTurn :
    (reading .scan 0 [] [0x40#8]).unread ≠ [] :=
  by decide

theorem witness_ScanRowsEndTheLoop :
    (reading .scan 0 [] []).unread = [] :=
  rfl

theorem witness_RowByRowScanIsDecode :
    ([0xDB#8] : List Byte) ≠ [] :=
  by decide

theorem witness_CodeWordScanIsDecode :
    ([0xDB#8, 0xDC#8] : List Byte) ≠ [] :=
  by decide

theorem witness_VerifyComparesComputedWithCarried :
    [0x00#8].length < 2 :=
  by decide

theorem witness_VerifyAcceptsAppendChecksum :
    exec (.appendChecksum [0x40#8]) State.reset = .next (after (.appendChecksum [0x40#8]) State.reset) ∧
      (after (.appendChecksum [0x40#8]) State.reset).result = .bytes [0x40#8, 0x48#8, 0xC4#8] ∧
      exec (.verify [0x40#8, 0x48#8, 0xC4#8]) State.reset = .next (after (.verify [0x40#8, 0x48#8, 0xC4#8]) State.reset) :=
  ⟨rfl, by decide, rfl⟩

theorem witness_LeadingZerosDoNotChangeTheChecksum :
    2 ≤ 2 ∧
      exec (.verify (List.replicate 2 0x00#8)) State.reset = .next (after (.verify (List.replicate 2 0x00#8)) State.reset) :=
  ⟨by decide, rfl⟩

theorem witness_VerifyIsAZeroResidue :
    2 ≤ [0x40#8, 0x48#8, 0xC4#8].length ∧
      exec (.verify [0x40#8, 0x48#8, 0xC4#8]) State.reset = .next (after (.verify [0x40#8, 0x48#8, 0xC4#8]) State.reset) ∧
      exec (.compute [0x40#8, 0x48#8, 0xC4#8]) State.reset = .next (after (.compute [0x40#8, 0x48#8, 0xC4#8]) State.reset) :=
  ⟨by decide, rfl, rfl⟩

theorem witness_MkToggleBuildsTheToggleByte :
    31 ≤ 31 ∧
      31 < 32 :=
  ⟨by decide, by decide⟩

theorem witness_EncodeCommandEmitsOneFrame :
    (∀ m, (sender (some 2)).params.maxTxContent = some m → [0x41#8, 0x5F#8].length ≤ m) ∧
      (sender (some 2)).params.maxTxContent = some 2 ∧
      2 < [0x41#8, 0x5F#8, 0x40#8].length :=
  ⟨by rintro _ ⟨⟩; decide, rfl, by decide⟩

theorem witness_CommandsAreMarshalledUnchanged :
    exec (.encodeCommand [0x40#8]) State.reset = .next (after (.encodeCommand [0x40#8]) State.reset) ∧
      (after (.encodeCommand [0x40#8]) State.reset).result = .bytes [0xC0#8, 0x40#8, 0x48#8, 0xC4#8, 0xC0#8] ∧
      ([0xC0#8, 0x40#8, 0x48#8, 0xC4#8, 0xC0#8].drop 1).dropLast = [0x40#8, 0x48#8, 0xC4#8] ∧
      exec (.decode [0x40#8, 0x48#8, 0xC4#8]) State.reset = .next (after (.decode [0x40#8, 0x48#8, 0xC4#8]) State.reset) ∧
      (after (.decode [0x40#8, 0x48#8, 0xC4#8]) State.reset).result = .ok [0x40#8, 0x48#8, 0xC4#8] ∧
      exec (.checkPayload [0x40#8, 0x48#8, 0xC4#8]) State.reset = .next (after (.checkPayload [0x40#8, 0x48#8, 0xC4#8]) State.reset) :=
  ⟨rfl, by decide, rfl, rfl, by decide, rfl⟩

theorem witness_CommandRowJoinsTheContent :
    encode (.cmdToggle true false 31#5) = some (.outbound, [0xDF#8]) ∧
      (sender (some 0)).params.maxTxContent = some 0 ∧
      0 < (sender (some 0)).i + 1 + (sender (some 0)).unread.length ∧
      (∀ m, (reading .outbound 0 [] [0x40#8]).params.maxTxContent = some m →
        (reading .outbound 0 [] [0x40#8]).i + 1 + (reading .outbound 0 [] [0x40#8]).unread.length ≤ m) ∧
      (reading .outbound 0 [] [0x40#8]).unread ≠ [] ∧
      (∀ m, (sender (some 1)).params.maxTxContent = some m → (sender (some 1)).i + 1 + (sender (some 1)).unread.length ≤ m) ∧
      (sender (some 1)).unread = [] :=
  ⟨by decide, rfl, by decide, by rintro _ ⟨⟩, by decide, by rintro _ ⟨⟩; decide, rfl⟩

theorem witness_RowByRowCommandsAreEncodeCommand :
    ([0x00#8] : List Byte) ≠ [] :=
  by decide

theorem witness_ShortStretchIsSilent :
    (receiver none [0xDB#8, 0xDC#8] false).rxbuf.length < 3 ∧
      (receiver none [0xDB#8, 0xDC#8, 0x00#8] false).rxdrop = false ∧
      (receiver none [0xDB#8, 0xDC#8, 0x00#8] false).rxbuf.length = 3 :=
  ⟨by decide, rfl, rfl⟩

theorem witness_LongStretchIsDecoded :
    (receiver none [0x40#8, 0xDB#8, 0x41#8] false).rxdrop = false ∧
      3 ≤ (receiver none [0x40#8, 0xDB#8, 0x41#8] false).rxbuf.length ∧
      exec (.decode (receiver none [0x40#8, 0xDB#8, 0x41#8] false).rxbuf) (receiver none [0x40#8, 0xDB#8, 0x41#8] false) = .next (after (.decode (receiver none [0x40#8, 0xDB#8, 0x41#8] false).rxbuf) (receiver none [0x40#8, 0xDB#8, 0x41#8] false)) :=
  ⟨rfl, by decide, rfl⟩

theorem witness_DataIsAppendedUnchanged :
    (0xDB#8 : Byte) ≠ 0xC0#8 ∧
      (receiver (some 6) [0x01#8, 0x02#8, 0x03#8, 0x04#8, 0x05#8] false).rxdrop = false ∧
      (∀ m, (receiver (some 6) [0x01#8, 0x02#8, 0x03#8, 0x04#8, 0x05#8] false).params.maxFrame = some m → (receiver (some 6) [0x01#8, 0x02#8, 0x03#8, 0x04#8, 0x05#8] false).rxbuf.length < m) :=
  ⟨by decide, rfl, by rintro _ ⟨⟩; decide⟩

theorem witness_OverflowDropsUntilTheNextEnd :
    (receiver (some 6) [0x01#8, 0x02#8, 0x03#8, 0x04#8, 0x05#8, 0x06#8] false).params.maxFrame = some 6 ∧
      (0x07#8 : Byte) ≠ 0xC0#8 ∧
      (receiver (some 6) [0x01#8, 0x02#8, 0x03#8, 0x04#8, 0x05#8, 0x06#8] false).rxdrop = false ∧
      (receiver (some 6) [0x01#8, 0x02#8, 0x03#8, 0x04#8, 0x05#8, 0x06#8] false).rxbuf.length = 6 ∧
      (receiver (some 6) [] true).params.maxFrame = some 6 ∧
      (receiver (some 6) [] true).rxdrop = true :=
  ⟨rfl, by decide, rfl, rfl, rfl, rfl⟩

theorem witness_OneFrameYieldsOnePayload :
    (receiver (some 3) [] false).rxbuf = [] ∧
      (receiver (some 3) [] false).rxdrop = false ∧
      ([0x40#8] : List Byte) ≠ [] ∧
      exec (.appendChecksum [0x40#8]) (receiver (some 3) [] false) = .next (after (.appendChecksum [0x40#8]) (receiver (some 3) [] false)) ∧
      (after (.appendChecksum [0x40#8]) (receiver (some 3) [] false)).result = .bytes [0x40#8, 0x48#8, 0xC4#8] ∧
      exec (.encode [0x40#8, 0x48#8, 0xC4#8]) (receiver (some 3) [] false) = .next (after (.encode [0x40#8, 0x48#8, 0xC4#8]) (receiver (some 3) [] false)) ∧
      (after (.encode [0x40#8, 0x48#8, 0xC4#8]) (receiver (some 3) [] false)).result = .bytes [0xC0#8, 0x40#8, 0x48#8, 0xC4#8, 0xC0#8] ∧
      (∀ m, (receiver (some 3) [] false).params.maxFrame = some m → [0xC0#8, 0x40#8, 0x48#8, 0xC4#8, 0xC0#8].length - 2 ≤ m) :=
  ⟨rfl, rfl, by decide, rfl, by decide, rfl, by decide, by rintro _ ⟨⟩; decide⟩

theorem witness_LoopBackReturnsTheCommands :
    (receiver (some 3) [] false).rxbuf = [] ∧
      (receiver (some 3) [] false).rxdrop = false ∧
      ([0x40#8] : List Byte) ≠ [] ∧
      exec (.encodeCommand [0x40#8]) (receiver (some 3) [] false) = .next (after (.encodeCommand [0x40#8]) (receiver (some 3) [] false)) ∧
      (after (.encodeCommand [0x40#8]) (receiver (some 3) [] false)).result = .bytes [0xC0#8, 0x40#8, 0x48#8, 0xC4#8, 0xC0#8] ∧
      (∀ m, (receiver (some 3) [] false).params.maxFrame = some m → [0xC0#8, 0x40#8, 0x48#8, 0xC4#8, 0xC0#8].length - 2 ≤ m) :=
  ⟨rfl, rfl, by decide, rfl, by decide, by rintro _ ⟨⟩; decide⟩

theorem witness_AnEndSeparatesWhatFollowsFromWhatWent :
    (receiver (some 6) [0x01#8, 0x02#8, 0x03#8, 0x04#8, 0x05#8, 0x06#8] false).params.maxFrame = { (receiver (some 6) [] true) with params := { maxFrame := some 6, maxTxContent := some 1, handshake := 7 } }.params.maxFrame ∧
      ([0x40#8] : List Byte) ≠ [] ∧
      exec (.feed 0xC0#8) (receiver (some 6) [0x01#8, 0x02#8, 0x03#8, 0x04#8, 0x05#8, 0x06#8] false) = .next (after (.feed 0xC0#8) (receiver (some 6) [0x01#8, 0x02#8, 0x03#8, 0x04#8, 0x05#8, 0x06#8] false)) ∧
      exec (.feed 0xC0#8) { (receiver (some 6) [] true) with params := { maxFrame := some 6, maxTxContent := some 1, handshake := 7 } } = .next (after (.feed 0xC0#8) { (receiver (some 6) [] true) with params := { maxFrame := some 6, maxTxContent := some 1, handshake := 7 } }) :=
  ⟨rfl, by decide, rfl, rfl⟩

theorem witness_EventByteIsReadByItsBits :
    (0xBF#8 : Byte).getLsbD 6 = false ∧
      (0xC0#8 : Byte).getLsbD 6 = true ∧
      (0xC0#8 : Byte).getLsbD 7 = true :=
  ⟨by decide, by decide, by decide⟩

theorem witness_TelemetryIsEventsAndOutputState :
    (List.replicate 31 0x00#8 : List Byte).length < 32 ∧
      (List.replicate 32 0x00#8 : List Byte).length = 32 ∧
      [0x01#8, 0x02#8, 0x03#8].length < 4 ∧
      [0x01#8, 0x02#8, 0x03#8, 0x04#8] = 0x01#8 :: 0x02#8 :: 0x03#8 :: 0x04#8 :: [] :=
  ⟨by decide +kernel, by decide +kernel, by decide, rfl⟩

theorem witness_EventRowsFillTheSlots :
    Instr.evtPress false 31#5 = .evtPress false 31#5 ∧
      (reading .telemetry 0 [] (List.replicate 30 0x00#8)).i + 1 + (reading .telemetry 0 [] (List.replicate 30 0x00#8)).unread.length < 32 ∧
      (reading .telemetry 30 [] [0x00#8]).i < 31 ∧
      32 ≤ (reading .telemetry 30 [] [0x00#8]).i + 1 + (reading .telemetry 30 [] [0x00#8]).unread.length ∧
      31 ≤ (reading .telemetry 31 [] []).i ∧
      (reading .telemetry 31 [] []).unread.length < 4 ∧
      (reading .telemetry 31 [] [0x01#8, 0x02#8, 0x03#8, 0x04#8]).unread = 0x01#8 :: 0x02#8 :: 0x03#8 :: 0x04#8 :: [] :=
  ⟨rfl, by decide +kernel, by decide, by decide, by decide, by decide, rfl⟩

theorem witness_RowByRowTelemetryIsDecodeTelemetry :
    (List.replicate 31 0x00#8 : List Byte) ≠ [] :=
  by decide +kernel

theorem witness_CheckPayloadStripsTheChecksum :
    [0x00#8].length < 2 ∧
      exec (.verify ([0x40#8] ++ [0x48#8, 0xC4#8])) State.reset = .next (after (.verify ([0x40#8] ++ [0x48#8, 0xC4#8])) State.reset) ∧
      gives (.verify ([0x40#8] ++ [0x48#8, 0xC4#8])) State.reset = .bool true ∧
      exec (.verify ([0x40#8] ++ [0x48#8, 0xC5#8])) State.reset = .next (after (.verify ([0x40#8] ++ [0x48#8, 0xC5#8])) State.reset) ∧
      gives (.verify ([0x40#8] ++ [0x48#8, 0xC5#8])) State.reset = .bool false :=
  ⟨by decide, rfl, by decide, rfl, by decide⟩

/-- Nothing, an error, and a payload whose content decodes. -/
theorem witness_RxStepIsFeedThenCheckThenDecode :
    exec (.feed 0xC0#8) (receiver none [0xDB#8] false) = .next (after (.feed 0xC0#8) (receiver none [0xDB#8] false)) ∧
      gives (.feed 0xC0#8) (receiver none [0xDB#8] false) = .none ∧
      exec (.feed 0xC0#8) (receiver none [0xDB#8, 0xDC#8, 0xDB#8] false) = .next (after (.feed 0xC0#8) (receiver none [0xDB#8, 0xDC#8, 0xDB#8] false)) ∧
      gives (.feed 0xC0#8) (receiver none [0xDB#8, 0xDC#8, 0xDB#8] false) = .error .truncatedEscape ∧
      exec (.feed 0xC0#8) (receiver none (List.replicate 34 0x00#8) false) = .next (after (.feed 0xC0#8) (receiver none (List.replicate 34 0x00#8) false)) ∧
      gives (.feed 0xC0#8) (receiver none (List.replicate 34 0x00#8) false) = .payload (List.replicate 34 0x00#8) ∧
      gives (.checkPayload (List.replicate 34 0x00#8)) (after (.feed 0xC0#8) (receiver none (List.replicate 34 0x00#8) false)) = .content (List.replicate 32 0x00#8) ∧
      gives (.checkPayload [0x40#8, 0x48#8, 0xC5#8]) (after (.feed 0xC0#8) (receiver none [0x40#8, 0x48#8, 0xC5#8] false)) = .error .mismatch :=
  ⟨rfl, by decide, rfl, by decide, rfl, by decide +kernel, by decide +kernel, by decide⟩

theorem witness_TheFirstFailingCheckIsReported :
    (0x07#8 : Byte) ≠ 0xC0#8 ∧
      (receiver (some 6) [0x01#8, 0x02#8, 0x03#8, 0x04#8, 0x05#8, 0x06#8] false).rxdrop = false ∧
      (receiver (some 6) [0x01#8, 0x02#8, 0x03#8, 0x04#8, 0x05#8, 0x06#8] false).params.maxFrame = some (receiver (some 6) [0x01#8, 0x02#8, 0x03#8, 0x04#8, 0x05#8, 0x06#8] false).rxbuf.length ∧
      (receiver (some 6) [] true).rxdrop = true ∧
      (receiver none [0xDB#8, 0xDC#8] false).rxbuf.length < 3 ∧
      (receiver none [0x40#8, 0xDB#8, 0x41#8] false).rxdrop = false ∧
      3 ≤ (receiver none [0x40#8, 0xDB#8, 0x41#8] false).rxbuf.length ∧
      gives (.decode (receiver none [0x40#8, 0xDB#8, 0x41#8] false).rxbuf) (receiver none [0x40#8, 0xDB#8, 0x41#8] false) = .error .malformedEscapeTarget ∧
      gives (.decode (receiver none [0x40#8, 0x48#8, 0xC5#8] false).rxbuf) (receiver none [0x40#8, 0x48#8, 0xC5#8] false) = .ok [0x40#8, 0x48#8, 0xC5#8] ∧
      gives (.verify [0x40#8, 0x48#8, 0xC5#8]) (receiver none [0x40#8, 0x48#8, 0xC5#8] false) = .bool false ∧
      gives (.decode (receiver none [0x40#8, 0x48#8, 0xC4#8] false).rxbuf) (receiver none [0x40#8, 0x48#8, 0xC4#8] false) = .ok [0x40#8, 0x48#8, 0xC4#8] ∧
      gives (.verify [0x40#8, 0x48#8, 0xC4#8]) (receiver none [0x40#8, 0x48#8, 0xC4#8] false) = .bool true ∧
      [0x40#8, 0x48#8, 0xC4#8].length - 2 < 32 ∧
      gives (.decode (receiver none (List.replicate 34 0x00#8) false).rxbuf) (receiver none (List.replicate 34 0x00#8) false) = .ok (List.replicate 34 0x00#8) ∧
      gives (.verify (List.replicate 34 0x00#8)) (receiver none (List.replicate 34 0x00#8) false) = .bool true ∧
      32 ≤ (List.replicate 34 0x00#8 : List Byte).length - 2 :=
  ⟨by decide, rfl, rfl, rfl, by decide, rfl, by decide, by decide, by decide, by decide, by decide, by decide, by decide, by decide +kernel, by decide +kernel, by decide +kernel⟩

theorem witness_NoChecksumFieldIsUnreachable :
    exec (.rxStep 0xC0#8) (receiver none [0xDB#8, 0xDC#8, 0xDB#8] false) = .next (after (.rxStep 0xC0#8) (receiver none [0xDB#8, 0xDC#8, 0xDB#8] false)) :=
  rfl

theorem witness_ErrorsLeaveACleanReceiver :
    exec (.feed 0x07#8) (receiver (some 6) [0x01#8, 0x02#8, 0x03#8, 0x04#8, 0x05#8, 0x06#8] false) = .next (after (.feed 0x07#8) (receiver (some 6) [0x01#8, 0x02#8, 0x03#8, 0x04#8, 0x05#8, 0x06#8] false)) ∧
      gives (.feed 0x07#8) (receiver (some 6) [0x01#8, 0x02#8, 0x03#8, 0x04#8, 0x05#8, 0x06#8] false) = .error .frameTooLong ∧
      exec (.rxStep 0xC0#8) (receiver none [0x40#8, 0x48#8, 0xC5#8] false) = .next (after (.rxStep 0xC0#8) (receiver none [0x40#8, 0x48#8, 0xC5#8] false)) ∧
      gives (.rxStep 0xC0#8) (receiver none [0x40#8, 0x48#8, 0xC5#8] false) = .error .mismatch :=
  ⟨rfl, by decide, rfl, by decide⟩

theorem witness_EveryStepKeepsTheReceiverInvariant :
    ReceiverInv ((receiver (some 6) [0x01#8, 0x02#8, 0x03#8, 0x04#8, 0x05#8] false).withScript [.feed [0x06#8]]) ∧
      step ((receiver (some 6) [0x01#8, 0x02#8, 0x03#8, 0x04#8, 0x05#8] false).withScript [.feed [0x06#8]]) = .next (((receiver (some 6) [0x01#8, 0x02#8, 0x03#8, 0x04#8, 0x05#8] false).withScript []).fed 0x06#8) :=
  ⟨⟨by decide, by decide, by decide, by decide, by rintro _ ⟨⟩; decide⟩, rfl⟩

theorem witness_OnlyTheReceivePathTouchesTheReceiver :
    exec (.decode [0x40#8]) (receiver none [0x40#8, 0x48#8, 0xC4#8] false) = .next (after (.decode [0x40#8]) (receiver none [0x40#8, 0x48#8, 0xC4#8] false)) :=
  rfl

theorem witness_OperationsWriteOnlyTheirWorkingRegisters :
    encode (.compute [0x40#8]) = none ∧
      exec (.compute [0x40#8]) State.reset = .next (after (.compute [0x40#8]) State.reset) :=
  ⟨rfl, rfl⟩

theorem witness_WorkingRegistersAreDeadBetweenOperations :
    encode (.rxStep 0xC0#8) = none ∧
      exec (.rxStep 0xC0#8) (receiver none [0x40#8, 0x48#8, 0xC4#8] false) = .next (after (.rxStep 0xC0#8) (receiver none [0x40#8, 0x48#8, 0xC4#8] false)) :=
  ⟨rfl, rfl⟩

theorem witness_NothingReadsTheHandshake :
    step ((receiver (some 6) [0x01#8, 0x02#8, 0x03#8, 0x04#8, 0x05#8] false).withScript [.feed [0x06#8]]) = .next (((receiver (some 6) [0x01#8, 0x02#8, 0x03#8, 0x04#8, 0x05#8] false).withScript []).fed 0x06#8) ∧
      step (State.reset.withScript [.mkToggle 32]) = .refused (.indexAbove31 32) :=
  ⟨rfl, rfl⟩

theorem witness_TransmitAndReceiveCommute :
    exec (.encodeCommand [0x40#8]) (receiver none [0x40#8, 0x48#8, 0xC4#8] false) = .next (after (.encodeCommand [0x40#8]) (receiver none [0x40#8, 0x48#8, 0xC4#8] false)) ∧
      (Instr.rxStep 0xC0#8 = .rxStep 0xC0#8 ∧ Instr.feed 0xC0#8 = .feed 0xC0#8) ∧
      exec (.rxStep 0xC0#8) (after (.encodeCommand [0x40#8]) (receiver none [0x40#8, 0x48#8, 0xC4#8] false)) = .next (after (.rxStep 0xC0#8) (after (.encodeCommand [0x40#8]) (receiver none [0x40#8, 0x48#8, 0xC4#8] false))) ∧
      exec (.feed 0xC0#8) (after (.encodeCommand [0x40#8]) (receiver none [0x40#8, 0x48#8, 0xC4#8] false)) = .next (after (.feed 0xC0#8) (after (.encodeCommand [0x40#8]) (receiver none [0x40#8, 0x48#8, 0xC4#8] false))) :=
  ⟨rfl, ⟨rfl, rfl⟩, rfl, rfl⟩

end Sys2Proof.Machine.Tests
end

section
/-! PROOFS. The machine as a whole (spec/00_scope.md): the invariant of the receiver, what no step reads, and the two
paths that share no state. -/

namespace Sys2Proof.Machine

open Sys2Proof

/-! ### The receiver's invariant reads three fields -/

/-- Two states with the same parameters, buffer and drop flag: all that `ReceiverInv` speaks of. -/
structure SameReceiver (s t : State) : Prop where
  params : t.params = s.params
  rxbuf : t.rxbuf = s.rxbuf
  rxdrop : t.rxdrop = s.rxdrop

theorem SameReceiver.receiverInv {s t : State} (h : SameReceiver s t) (hs : ReceiverInv s) : ReceiverInv t where
  paramsLegal := h.params ▸ hs.paramsLegal
  noEnd := h.rxbuf ▸ hs.noEnd
  droppingEmpty := by rw [h.rxdrop, h.rxbuf]; exact hs.droppingEmpty
  droppingBounded := by rw [h.params, h.rxdrop]; exact hs.droppingBounded
  bounded := by rw [h.params, h.rxbuf]; exact hs.bounded

/-- A clean receiver meets the invariant under any legal parameters. -/
theorem Clean.receiverInv {s : State} (h : Clean s) (hp : s.params.wf = true) : ReceiverInv s where
  paramsLegal := hp
  noEnd := by rw [h.bufferEmpty]; exact memory_wf_nil
  droppingEmpty := fun _ => h.bufferEmpty
  droppingBounded := fun _ => h.notDropping
  bounded := fun m _ => by simp [h.bufferEmpty]

/-! ### The instructions that leave the receiver alone -/

theorem scanEmit_sameReceiver (s : State) (v : Byte) (n : Nat) : SameReceiver s (s.scanEmit v n) := by
  obtain ⟨hp, hb, hd, -⟩ := scanEmit_frame s v n
  exact ⟨hp, hb, hd⟩

theorem eventSlot_sameReceiver (s : State) (e : Option Event) : SameReceiver s (s.eventSlot e) := by
  rcases eventSlot_cases s e with ⟨-, h⟩ | ⟨-, -, h⟩ | ⟨-, h⟩ <;> rw [h] <;> exact ⟨rfl, rfl, rfl⟩

theorem telemetryDone_sameReceiver (s : State) (c : List Byte) : SameReceiver s (s.telemetryDone c) := by
  obtain ⟨hp, hb, hd, -⟩ := telemetryDone_frame s c
  exact ⟨hp, hb, hd⟩

theorem marshalByte_sameReceiver {b : Byte} {s t : State} (h : marshalByte b s = .next t) : SameReceiver s t := by
  obtain ⟨-, ⟨-, rfl⟩ | ⟨-, f, rfl⟩⟩ := marshalByte_next b s t h <;> exact ⟨rfl, rfl, rfl⟩

theorem execEsc_sameReceiver {s t : State} (h : execEsc s = .next t) : SameReceiver s t := by
  unfold execEsc at h
  split at h <;> cases h <;> exact ⟨rfl, rfl, rfl⟩

/-- The instructions that write the buffer or the drop flag: Feed, RxStep, Reset, and the rows END and DATA (rule R20,
rule R22, rule R33). -/
def touchesReceiver : Instr → Bool
  | .endMark | .data _ | .feed _ | .rxStep _ | .reset => true
  | _ => false

/-- Every other instruction leaves the receiver alone. -/
theorem exec_sameReceiver {i : Instr} {s t : State} (hi : touchesReceiver i = false) (h : exec i s = .next t) :
    SameReceiver s t := by
  cases i with
  | endMark | data | feed | rxStep | reset => cases hi
  | esc => exact execEsc_sameReceiver h
  | rawEnd | lit | pairEnd | pairEsc => cases h; exact scanEmit_sameReceiver s _ _
  | escEnd | escEsc =>
    cases h
    obtain ⟨hp, hb, hd⟩ := scanEmit_sameReceiver s.backToScan _ _
    exact ⟨hp, hb, hd⟩
  | cmdToggle => exact marshalByte_sameReceiver h
  | evtPress | evtRelease | evtPad => cases h; exact eventSlot_sameReceiver s _
  | mkToggle idx => obtain ⟨-, rfl⟩ := (execMkToggle_next idx s t).mp h; exact ⟨rfl, rfl, rfl⟩
  | encodeCommand cs => obtain ⟨-, rfl⟩ := (execEncodeCommand_next cs s t).mp h; exact ⟨rfl, rfl, rfl⟩
  | decodeTelemetry c =>
    cases h
    obtain ⟨hp, hb, hd⟩ := telemetryDone_sameReceiver s c
    exact ⟨hp, hb, hd⟩
  | badEsc | encode | decode | compute | appendChecksum | verify | decodeEventByte | checkPayload =>
    cases h; exact ⟨rfl, rfl, rfl⟩

/-! ### The instructions that write the receiver -/

/-- END leaves a clean receiver in every case (rule R201). -/
theorem feedEnd_clean (s : State) : Clean (feedEnd s).1 := by
  rcases feedEnd_cases s with ⟨-, h⟩ | ⟨-, -, h⟩ <;> rw [h] <;> exact ⟨rfl, rfl⟩

theorem feedEnd_params (s : State) : (feedEnd s).1.params = s.params := by
  rw [← feedByte_end]
  exact (feedByte_frame Config.endByte s).1

theorem feedEnd_receiverInv {s : State} (hs : ReceiverInv s) : ReceiverInv (feedEnd s).1 :=
  (feedEnd_clean s).receiverInv (feedEnd_params s ▸ hs.paramsLegal)

/-- Overflow starts a drop only where there is a bound (rule R205). -/
theorem startDropping_receiverInv {s : State} (hs : ReceiverInv s) (hm : s.params.maxFrame ≠ none) :
    ReceiverInv s.startDropping where
  paramsLegal := hs.paramsLegal
  noEnd := startDropping_wf s
  droppingEmpty := fun _ => rfl
  droppingBounded := fun h => absurd h hm
  bounded := fun m _ => Nat.zero_le m

/-- A byte other than END may join a buffer that is not full, outside a drop (rule R204). -/
theorem appendRaw_receiverInv {b : Byte} {s : State} (hs : ReceiverInv s) (hb : b ≠ Config.endByte)
    (hd : s.rxdrop = false) (hroom : s.params.maxFrame ≠ some s.rxbuf.length) : ReceiverInv (s.appendRaw b) where
  paramsLegal := hs.paramsLegal
  noEnd := appendRaw_wf s b hs.noEnd hb
  droppingEmpty := by simp [hd]
  droppingBounded := fun _ => hd
  bounded := fun m hm => by
    rw [appendRaw_params] at hm
    have hle : s.rxbuf.length ≤ m := hs.bounded m hm
    have hne : s.rxbuf.length ≠ m := fun h => hroom (h ▸ hm)
    simp only [appendRaw_rxbuf, List.length_append, List.length_singleton]
    omega

theorem feedData_receiverInv {b : Byte} {s : State} (hs : ReceiverInv s) (hb : b ≠ Config.endByte) :
    ReceiverInv (feedData b s).1 := by
  rcases feedData_cases b s with ⟨-, h⟩ | ⟨-, hfull, h⟩ | ⟨hd, hroom, h⟩ <;> rw [h]
  · exact hs
  · exact startDropping_receiverInv hs (by simp [hfull])
  · exact appendRaw_receiverInv hs hb hd hroom

theorem feedByte_receiverInv (b : Byte) {s : State} (hs : ReceiverInv s) : ReceiverInv (feedByte b s).1 := by
  by_cases hb : b = Config.endByte
  · rw [hb, feedByte_end]; exact feedEnd_receiverInv hs
  · rw [feedByte_data b s hb]; exact feedData_receiverInv hs hb

theorem rxByte_receiverInv (b : Byte) {s : State} (hs : ReceiverInv s) : ReceiverInv (rxByte b s).1 := by
  obtain ⟨hbuf, hdrop, hparams, -⟩ := rxByte_frame b s
  have hfeed : (feedByte b s).1.params = s.params := (feedByte_frame b s).1
  exact SameReceiver.receiverInv ⟨hparams.trans hfeed.symm, hbuf, hdrop⟩ (feedByte_receiverInv b hs)

theorem deliver_receiverInv {s : State} (r : Result) (hs : ReceiverInv s) : ReceiverInv (s.deliver r) :=
  SameReceiver.receiverInv (s := s) ⟨rfl, rfl, rfl⟩ hs

/-- Every instruction keeps the invariant, but for the row DATA with the byte END, which is no row of the table (rule
R90). -/
theorem exec_receiverInv {i : Instr} {s t : State} (hs : ReceiverInv s) (hi : i ≠ .data Config.endByte)
    (h : exec i s = .next t) : ReceiverInv t := by
  cases i with
  | endMark => cases h; exact deliver_receiverInv _ (feedEnd_receiverInv hs)
  | data b => cases h; exact deliver_receiverInv _ (feedData_receiverInv hs fun hb => hi (hb ▸ rfl))
  | feed b => cases h; exact deliver_receiverInv _ (feedByte_receiverInv b hs)
  | rxStep b => cases h; exact deliver_receiverInv _ (rxByte_receiverInv b hs)
  | reset => cases h; exact Clean.receiverInv ⟨rfl, rfl⟩ hs.paramsLegal
  | _ => exact (exec_sameReceiver rfl h).receiverInv hs

/-! ### What a step fetches -/

theorem decodeStream_ne_dataEnd (b : Byte) : decodeStream b ≠ .data Config.endByte := by
  unfold decodeStream
  split
  · simp
  · next hb => exact fun h => hb (Instr.data.inj h)

theorem decodeScan_ne_data (b c : Byte) : decodeScan b ≠ .data c := by
  unfold decodeScan
  split_ifs <;> simp

theorem decodeAfterEsc_ne_data (b c : Byte) : decodeAfterEsc b ≠ .data c := by
  unfold decodeAfterEsc
  split_ifs <;> simp

theorem decodeEvent_ne_data (b c : Byte) : decodeEvent b ≠ .data c := by
  unfold decodeEvent
  split_ifs <;> simp

theorem decodeEscaped_ne_data (b c : Byte) (more rest : List Byte) :
    decodeEscaped b more ≠ .instr (.data c) rest := by
  unfold decodeEscaped
  split
  · split_ifs <;> simp [decodeScan_ne_data]
  · simp [decodeScan_ne_data]

theorem decodeCommand_ne_data (b c : Byte) (more rest : List Byte) :
    decodeCommand b more ≠ .instr (.data c) rest := by
  unfold decodeCommand
  split_ifs <;> simp

/-- DATA is read in context STREAM only, where END is the row END (rule R90). -/
theorem decode_ne_dataEnd {ctx : Context} {bytes rest : List Byte} {i : Instr}
    (h : decode ctx bytes = .instr i rest) : i ≠ .data Config.endByte := by
  rintro rfl
  cases bytes with
  | nil => cases h
  | cons b more =>
    cases ctx with
    | stream => exact decodeStream_ne_dataEnd b (Decoded.instr.inj h).1
    | scan => exact decodeScan_ne_data b _ (Decoded.instr.inj h).1
    | afterEsc => exact decodeAfterEsc_ne_data b _ (Decoded.instr.inj h).1
    | escaped => exact decodeEscaped_ne_data b _ more rest h
    | outbound => exact decodeCommand_ne_data b _ more rest h
    | telemetry => exact decodeEvent_ne_data b _ (Decoded.instr.inj h).1

theorem fetchScript_cases (s : State) :
    (∃ i s', fetchScript s = .instr i s' ∧ i ≠ .data Config.endByte ∧ SameReceiver s s') ∨
    (∃ s', fetchScript s = .moved s' ∧ SameReceiver s s') ∨ fetchScript s = .idle := by
  unfold fetchScript
  split
  · exact .inr (.inr rfl)
  · next st more _ =>
    rcases fetchStmt_cases st { s with script := more } with ⟨i, s', h, hi, hp, hb, hd⟩ | ⟨s', h, hp, hb, hd⟩
    · exact .inl ⟨i, s', h, (by rintro rfl; cases hi), hp, hb, hd⟩
    · exact .inr (.inl ⟨s', h, hp, hb, hd⟩)

/-- Everything a step can fetch: the receiver is as it was, and DATA never carries END. -/
theorem fetch_cases (s : State) :
    (∃ i s', fetch s = .instr i s' ∧ i ≠ .data Config.endByte ∧ SameReceiver s s') ∨
    (∃ b s', fetch s = .command b s' ∧ SameReceiver s s') ∨
    (∃ s', fetch s = .moved s' ∧ SameReceiver s s') ∨ fetch s = .idle := by
  unfold fetch
  split
  · next i rest hdec => exact .inl ⟨i, _, rfl, decode_ne_dataEnd hdec, rfl, rfl, rfl⟩
  · next b _ => exact .inr (.inl ⟨b, _, rfl, rfl, rfl, rfl⟩)
  · rcases fetchScript_cases s with h | h | h
    · exact .inl h
    · exact .inr (.inr (.inl h))
    · exact .inr (.inr (.inr h))

theorem step_receiverInv {s t : State} (hs : ReceiverInv s) (h : step s = .next t) : ReceiverInv t := by
  unfold step at h
  rcases fetch_cases s with ⟨i, s', hf, hi, hsame⟩ | ⟨b, s', hf, hsame⟩ | ⟨s', hf, hsame⟩ | hf <;>
    rw [hf] at h
  · exact exec_receiverInv (hsame.receiverInv hs) hi h
  · exact (marshalByte_sameReceiver h).receiverInv (hsame.receiverInv hs)
  · cases h; exact hsame.receiverInv hs
  · cases h; exact hs

/-- Settles O53: what a step fetches leaves the receiver alone, and every instruction it can fetch keeps the
invariant. -/
theorem everyStepKeepsTheReceiverInvariant : Obligations.EveryStepKeepsTheReceiverInvariant :=
  fun _ _ hs h => step_receiverInv hs h

/-! ### HANDSHAKE is read by nothing (decision D2) -/

/-- The state under another choice of HANDSHAKE. -/
def State.withHandshake (s : State) (h : Nat) : State := { s with params := { s.params with handshake := h } }

/-- The outcome with its next state, where it has one, changed by `f`. -/
def mapNext (f : State → State) : Host.Outcome State Fault Refusal → Host.Outcome State Fault Refusal
  | .next s => .next (f s)
  | .fault r => .fault r
  | .refused r => .refused r

/-- What is fetched with the state it runs in changed by `f`. -/
def Fetched.mapState (f : State → State) : Fetched → Fetched
  | .instr i s => .instr i (f s)
  | .command b s => .command b (f s)
  | .moved s => .moved (f s)
  | .idle => .idle

section Handshake

variable (s : State) (h : Nat)

@[simp] theorem withHandshake_rxbuf : (s.withHandshake h).rxbuf = s.rxbuf := rfl
@[simp] theorem withHandshake_rxdrop : (s.withHandshake h).rxdrop = s.rxdrop := rfl
@[simp] theorem withHandshake_i : (s.withHandshake h).i = s.i := rfl
@[simp] theorem withHandshake_ctx : (s.withHandshake h).ctx = s.ctx := rfl
@[simp] theorem withHandshake_unread : (s.withHandshake h).unread = s.unread := rfl
@[simp] theorem withHandshake_script : (s.withHandshake h).script = s.script := rfl

@[simp] theorem exceedsTxContent_withHandshake (n : Nat) :
    exceedsTxContent (s.withHandshake h).params n = exceedsTxContent s.params n := rfl

@[simp] theorem bufferFull_withHandshake (m : Memory) :
    bufferFull (s.withHandshake h).params m = bufferFull s.params m := rfl

theorem scanEmit_withHandshake (v : Byte) (n : Nat) :
    (s.withHandshake h).scanEmit v n = (s.scanEmit v n).withHandshake h := by
  by_cases hu : s.unread = [] <;> simp only [State.scanEmit, withHandshake_unread, hu, ↓reduceIte] <;> rfl

theorem eventSlot_withHandshake (e : Option Event) :
    (s.withHandshake h).eventSlot e = (s.eventSlot e).withHandshake h := by
  simp only [State.eventSlot, withHandshake_unread, withHandshake_i]
  by_cases hshort : s.i + 1 + s.unread.length < Config.eventSlots
  · simp only [hshort, ↓reduceIte]; rfl
  · by_cases hmore : s.i + 1 < Config.eventSlots <;> simp only [hshort, hmore, ↓reduceIte] <;> rfl

theorem telemetryDone_withHandshake (c : List Byte) :
    (s.withHandshake h).telemetryDone c = (s.telemetryDone c).withHandshake h := by
  unfold State.telemetryDone
  split <;> rfl

theorem marshalByte_withHandshake (b : Byte) :
    marshalByte b (s.withHandshake h) = mapNext (·.withHandshake h) (marshalByte b s) := by
  simp only [marshalByte, exceedsTxContent_withHandshake, withHandshake_i, withHandshake_unread]
  by_cases hlong : exceedsTxContent s.params (s.i + 1 + s.unread.length) = true
  · simp only [hlong, ↓reduceIte]; rfl
  · simp only [hlong]
    by_cases hu : s.unread = [] <;> simp only [hu, ↓reduceIte] <;> rfl

theorem feedEnd_withHandshake :
    feedEnd (s.withHandshake h) = ((feedEnd s).1.withHandshake h, (feedEnd s).2) := by
  simp only [feedEnd, withHandshake_rxdrop, withHandshake_rxbuf]
  by_cases hd : s.rxdrop = true
  · simp only [hd, ↓reduceIte]; rfl
  · by_cases hs : shortStretch s.rxbuf = true <;> simp only [hd, hs, ↓reduceIte] <;> rfl

theorem feedData_withHandshake (b : Byte) :
    feedData b (s.withHandshake h) = ((feedData b s).1.withHandshake h, (feedData b s).2) := by
  simp only [feedData, withHandshake_rxdrop, withHandshake_rxbuf, bufferFull_withHandshake]
  by_cases hd : s.rxdrop = true
  · simp only [hd, ↓reduceIte]
  · by_cases hf : bufferFull s.params s.rxbuf = true <;> simp only [hd, hf, ↓reduceIte] <;> rfl

theorem feedByte_withHandshake (b : Byte) :
    feedByte b (s.withHandshake h) = ((feedByte b s).1.withHandshake h, (feedByte b s).2) := by
  unfold feedByte
  split
  · exact feedEnd_withHandshake s h
  · exact feedData_withHandshake s h b

theorem payloadStep_withHandshake (p : List Byte) :
    payloadStep p (s.withHandshake h) = ((payloadStep p s).1.withHandshake h, (payloadStep p s).2) := by
  unfold payloadStep
  split
  · rw [← telemetryDone_withHandshake]; rfl
  · rfl

theorem rxByte_withHandshake (b : Byte) :
    rxByte b (s.withHandshake h) = ((rxByte b s).1.withHandshake h, (rxByte b s).2) := by
  simp only [rxByte, feedByte_withHandshake]
  split
  · exact payloadStep_withHandshake _ h _
  · rfl

/-- An instruction that delivers what a receive operation answers reads HANDSHAKE only if that operation does. -/
theorem nextDeliver_withHandshake {f : State → State × Result}
    (hf : f (s.withHandshake h) = ((f s).1.withHandshake h, (f s).2)) :
    Host.Outcome.next ((f (s.withHandshake h)).1.deliver (f (s.withHandshake h)).2) =
      mapNext (·.withHandshake h) (.next ((f s).1.deliver (f s).2)) := by
  rw [hf]; rfl

theorem execEsc_withHandshake : execEsc (s.withHandshake h) = mapNext (·.withHandshake h) (execEsc s) := by
  by_cases hu : s.unread = [] <;> simp only [execEsc, withHandshake_unread, hu, ↓reduceIte] <;> rfl

theorem execMkToggle_withHandshake (idx : Nat) :
    execMkToggle idx (s.withHandshake h) = mapNext (·.withHandshake h) (execMkToggle idx s) := by
  unfold execMkToggle
  split <;> rfl

theorem execEncodeCommand_withHandshake (cs : List Byte) :
    execEncodeCommand cs (s.withHandshake h) = mapNext (·.withHandshake h) (execEncodeCommand cs s) := by
  simp only [execEncodeCommand, exceedsTxContent_withHandshake]
  by_cases hlong : exceedsTxContent s.params cs.length = true <;> simp only [hlong, ↓reduceIte] <;> rfl

/-- No instruction reads HANDSHAKE. -/
theorem exec_withHandshake (i : Instr) :
    exec i (s.withHandshake h) = mapNext (·.withHandshake h) (exec i s) := by
  cases i with
  | endMark => exact nextDeliver_withHandshake s h (feedEnd_withHandshake s h)
  | data b => exact nextDeliver_withHandshake s h (feedData_withHandshake s h b)
  | feed b => exact nextDeliver_withHandshake s h (feedByte_withHandshake s h b)
  | rxStep b => exact nextDeliver_withHandshake s h (rxByte_withHandshake s h b)
  | esc => exact execEsc_withHandshake s h
  | rawEnd | lit | pairEnd | pairEsc => exact congrArg Host.Outcome.next (scanEmit_withHandshake s h _ _)
  | escEnd | escEsc => exact congrArg Host.Outcome.next (scanEmit_withHandshake s.backToScan h _ _)
  | cmdToggle => exact marshalByte_withHandshake s h _
  | evtPress | evtRelease | evtPad => exact congrArg Host.Outcome.next (eventSlot_withHandshake s h _)
  | mkToggle idx => exact execMkToggle_withHandshake s h idx
  | encodeCommand cs => exact execEncodeCommand_withHandshake s h cs
  | decodeTelemetry c =>
    exact congrArg (fun u => Host.Outcome.next (u.answer (telemetryResult c))) (telemetryDone_withHandshake s h c)
  | badEsc | encode | decode | compute | appendChecksum | verify | decodeEventByte | checkPayload | reset => rfl

theorem fetchStmt_withHandshake (st : Stmt) :
    fetchStmt st (s.withHandshake h) = (fetchStmt st s).mapState (·.withHandshake h) := by
  cases st with
  | feed bytes => cases bytes <;> rfl
  | rx bytes => cases bytes <;> rfl
  | present ctx bytes =>
    cases bytes with
    | nil => cases ctx <;> rfl
    | cons => rfl
  | _ => rfl

theorem fetchScript_withHandshake :
    fetchScript (s.withHandshake h) = (fetchScript s).mapState (·.withHandshake h) := by
  simp only [fetchScript, withHandshake_script]
  cases s.script with
  | nil => rfl
  | cons st more => exact fetchStmt_withHandshake { s with script := more } h st

theorem fetch_withHandshake : fetch (s.withHandshake h) = (fetch s).mapState (·.withHandshake h) := by
  simp only [fetch, withHandshake_ctx, withHandshake_unread]
  split
  · rfl
  · rfl
  · exact fetchScript_withHandshake s h

theorem step_withHandshake : step (s.withHandshake h) = mapNext (·.withHandshake h) (step s) := by
  unfold step
  rw [fetch_withHandshake]
  cases fetch s with
  | instr i s' => exact exec_withHandshake s' h i
  | command b s' => exact marshalByte_withHandshake s' h b
  | moved | idle => rfl

end Handshake

/-- Settles O59: changing HANDSHAKE before a step is changing it after the step. -/
theorem nothingReadsTheHandshake : Obligations.NothingReadsTheHandshake := by
  intro s h
  have hstep : step { s with params := { s.params with handshake := h } } = mapNext (·.withHandshake h) (step s) :=
    step_withHandshake s h
  constructor
  · intro t ht
    rw [hstep, ht]; rfl
  · intro r hr
    rw [hstep, hr]; rfl

/-! ### The transmit and the receive path share no state (rule R8) -/

/-- The receive part of an instruction, before its result is delivered: beside working registers it writes the buffer
and the drop flag only, and only those two and MAX_FRAME enter what it writes there and what it answers. -/
structure ReceivePart (f : State → State × Result) : Prop where
  params : ∀ s, (f s).1.params = s.params
  txLog : ∀ s, (f s).1.txLog = s.txLog
  rxLog : ∀ s, (f s).1.rxLog = s.rxLog
  rxIndex : ∀ s, (f s).1.rxIndex = s.rxIndex
  reads : ∀ s t, SameReceiver s t →
    (f t).2 = (f s).2 ∧ (f t).1.rxbuf = (f s).1.rxbuf ∧ (f t).1.rxdrop = (f s).1.rxdrop

theorem feedByte_receivePart (b : Byte) : ReceivePart (feedByte b) where
  params s := (feedByte_frame b s).1
  txLog s := by simp [feedByte_frame b s]
  rxLog s := by simp [feedByte_frame b s]
  rxIndex s := by simp [feedByte_frame b s]
  reads s t h := feedByte_reads b t s (congrArg _ h.params) h.rxbuf h.rxdrop

/-- What a payload's check and decoding answer depends on the payload only. -/
theorem payloadStep_result (p : List Byte) (s t : State) : (payloadStep p s).2 = (payloadStep p t).2 := by
  unfold payloadStep
  split <;> rfl

/-- The answer of RxStep depends on the answer of Feed only. -/
theorem rxByte_result (b : Byte) {s t : State} (h : (feedByte b t).2 = (feedByte b s).2) :
    (rxByte b t).2 = (rxByte b s).2 := by
  simp only [rxByte, h]
  split
  · exact payloadStep_result _ _ _
  · rfl

theorem rxByte_receivePart (b : Byte) : ReceivePart (rxByte b) where
  params s := by simp [rxByte_frame b s]
  txLog s := by simp [rxByte_frame b s]
  rxLog s := by simp [rxByte_frame b s]
  rxIndex s := by simp [rxByte_frame b s]
  reads s t h := by
    obtain ⟨hres, hbuf, hdrop⟩ := (feedByte_receivePart b).reads s t h
    obtain ⟨hbs, hds, -⟩ := rxByte_frame b s
    obtain ⟨hbt, hdt, -⟩ := rxByte_frame b t
    exact ⟨rxByte_result b hres, by rw [hbt, hbs, hbuf], by rw [hdt, hds, hdrop]⟩

/-- RxStep and Feed always answer: their receive part, delivered. -/
theorem exec_receive {receive : Instr} {b : Byte} (h : receive = .rxStep b ∨ receive = .feed b) :
    ∃ f, ReceivePart f ∧ ∀ s, exec receive s = .next ((f s).1.deliver (f s).2) := by
  rcases h with rfl | rfl
  · exact ⟨rxByte b, rxByte_receivePart b, fun _ => rfl⟩
  · exact ⟨feedByte b, feedByte_receivePart b, fun _ => rfl⟩

/-- Settles O60: EncodeCommand writes nothing the receive part reads, and the receive part keeps the parameters, all
that EncodeCommand reads. -/
theorem transmitAndReceiveCommute : Obligations.TransmitAndReceiveCommute := by
  intro s t₁ t₂ cs b receive hreceive htx hrx
  obtain ⟨f, hf, hexec⟩ := exec_receive hreceive
  obtain ⟨hfits, rfl⟩ := (execEncodeCommand_next cs s t₁).mp htx
  rw [hexec] at hrx
  cases hrx
  obtain ⟨hres, hbuf, hdrop⟩ := hf.reads s _
    (exec_sameReceiver (i := .encodeCommand cs) rfl htx)
  refine ⟨_, _, hexec s, (execEncodeCommand_next cs _ _).mpr ⟨by simpa [hf.params] using hfits, rfl⟩, ?_⟩
  simp [hres, hbuf, hdrop, hf.txLog, hf.rxLog, hf.rxIndex]

end Sys2Proof.Machine
end

section
/-! PROOFS. The state (spec/10_state.md): what reset leaves, what each instruction may write, and which registers none
of them reads. -/

namespace Sys2Proof.Machine

open Sys2Proof

/-! ### The reset state -/

theorem reset_clean : Clean State.reset := ⟨rfl, rfl⟩

/-- Settles O54: the reset receiver is clean, and the document's parameters are legal. -/
theorem resetStateIsClean : Obligations.ResetStateIsClean :=
  ⟨reset_clean.receiverInv rfl, reset_clean, rfl, rfl, rfl, rfl, rfl, rfl⟩

/-! ### Who writes the logs, the script and the parameters -/

/-- The instructions that may emit a frame on `tx_out` (rule R181, rule R306). -/
def transmits : Instr → Bool
  | .encodeCommand _ | .cmdToggle _ _ _ => true
  | _ => false

/-- What the instruction `i`, run in `s`, leaves of the script, the parameters and the logs in `t`. -/
structure PortsFrame (i : Instr) (s t : State) : Prop where
  params : t.params = s.params
  script : t.script = s.script
  rxLog : touchesReceiver i = false → t.rxLog = s.rxLog ∧ t.rxIndex = s.rxIndex
  txLog : transmits i = false → t.txLog = s.txLog

theorem scanEmit_portsFrame (i : Instr) (s : State) (v : Byte) (n : Nat) : PortsFrame i s (s.scanEmit v n) := by
  obtain ⟨hp, -, -, -, -, hs, ht, hr, hx⟩ := scanEmit_frame s v n
  exact ⟨hp, hs, fun _ => ⟨hr, hx⟩, fun _ => ht⟩

theorem eventSlot_portsFrame (i : Instr) (s : State) (e : Option Event) : PortsFrame i s (s.eventSlot e) := by
  rcases eventSlot_cases s e with ⟨-, h⟩ | ⟨-, -, h⟩ | ⟨-, h⟩ <;> rw [h] <;>
    exact ⟨rfl, rfl, fun _ => ⟨rfl, rfl⟩, fun _ => rfl⟩

theorem marshalByte_portsFrame {i : Instr} (hi : transmits i = true) {b : Byte} {s t : State}
    (h : marshalByte b s = .next t) : PortsFrame i s t := by
  obtain ⟨-, ⟨-, rfl⟩ | ⟨-, f, rfl⟩⟩ := marshalByte_next b s t h <;>
    exact ⟨rfl, rfl, fun _ => ⟨rfl, rfl⟩, by simp [hi]⟩

/-- A delivered result goes to the receive log only. -/
theorem deliver_portsFrame {i : Instr} (hi : touchesReceiver i = true) {s u : State} (r : Result)
    (hp : u.params = s.params) (hs : u.script = s.script) (ht : u.txLog = s.txLog) : PortsFrame i s (u.deliver r) :=
  ⟨hp, hs, by simp [hi], fun _ => ht⟩

theorem execEsc_portsFrame {s t : State} (h : execEsc s = .next t) : PortsFrame .esc s t := by
  unfold execEsc at h
  split at h <;> cases h <;> exact ⟨rfl, rfl, fun _ => ⟨rfl, rfl⟩, fun _ => rfl⟩

/-- Only the receive path writes the receive log and the byte index, only the Command Encoder writes the transmit log,
and no instruction writes the script or the parameters. -/
theorem exec_portsFrame {i : Instr} {s t : State} (h : exec i s = .next t) : PortsFrame i s t := by
  cases i with
  | endMark =>
    cases h
    have hf := feedByte_frame Config.endByte s
    rw [feedByte_end] at hf
    obtain ⟨hp, -, -, -, -, hs, -, ht, -⟩ := hf
    exact deliver_portsFrame rfl _ hp hs ht
  | data b =>
    cases h
    rcases feedData_cases b s with ⟨-, h⟩ | ⟨-, -, h⟩ | ⟨-, -, h⟩ <;> rw [h] <;>
      exact deliver_portsFrame rfl _ rfl rfl rfl
  | feed b =>
    cases h
    obtain ⟨hp, -, -, -, -, hs, -, ht, -⟩ := feedByte_frame b s
    exact deliver_portsFrame rfl _ hp hs ht
  | rxStep b =>
    cases h
    obtain ⟨-, -, hp, -, -, hs, ht, -⟩ := rxByte_frame b s
    exact deliver_portsFrame rfl _ hp hs ht
  | reset => cases h; exact ⟨rfl, rfl, nofun, fun _ => rfl⟩
  | esc => exact execEsc_portsFrame h
  | rawEnd | lit | pairEnd | pairEsc => cases h; exact scanEmit_portsFrame _ s _ _
  | escEnd | escEsc =>
    cases h
    obtain ⟨hp, -, -, -, -, hs, ht, hr, hx⟩ := scanEmit_frame s.backToScan _ _
    exact ⟨hp, hs, fun _ => ⟨hr, hx⟩, fun _ => ht⟩
  | cmdToggle => exact marshalByte_portsFrame rfl h
  | evtPress | evtRelease | evtPad => cases h; exact eventSlot_portsFrame _ s _
  | mkToggle idx =>
    obtain ⟨-, rfl⟩ := (execMkToggle_next idx s t).mp h
    exact ⟨rfl, rfl, fun _ => ⟨rfl, rfl⟩, fun _ => rfl⟩
  | encodeCommand cs =>
    obtain ⟨-, rfl⟩ := (execEncodeCommand_next cs s t).mp h
    exact ⟨rfl, rfl, fun _ => ⟨rfl, rfl⟩, nofun⟩
  | decodeTelemetry c =>
    cases h
    obtain ⟨hp, -, -, -, -, -, -, hs, -, ht, hr, hx⟩ := telemetryDone_frame s c
    exact ⟨hp, hs, fun _ => ⟨hr, hx⟩, fun _ => ht⟩
  | badEsc | encode | decode | compute | appendChecksum | verify | decodeEventByte | checkPayload =>
    cases h; exact ⟨rfl, rfl, fun _ => ⟨rfl, rfl⟩, fun _ => rfl⟩

/-- An instruction that is none of Feed, RxStep, Reset, END and DATA does not touch the receiver. -/
theorem touchesReceiver_eq_false {i : Instr} (hbyte : ∀ b, i ≠ .data b ∧ i ≠ .feed b ∧ i ≠ .rxStep b)
    (hend : i ≠ .endMark) (hreset : i ≠ .reset) : touchesReceiver i = false := by
  cases i with
  | data b => exact absurd rfl (hbyte b).1
  | feed b => exact absurd rfl (hbyte b).2.1
  | rxStep b => exact absurd rfl (hbyte b).2.2
  | endMark => exact absurd rfl hend
  | reset => exact absurd rfl hreset
  | _ => rfl

/-- An instruction that is neither EncodeCommand nor CMD.TOGGLE does not transmit. -/
theorem transmits_eq_false {i : Instr} (hcmd : ∀ cs, i ≠ .encodeCommand cs)
    (htog : ∀ b7 b5 idx, i ≠ .cmdToggle b7 b5 idx) : transmits i = false := by
  cases i with
  | encodeCommand cs => exact absurd rfl (hcmd cs)
  | cmdToggle b7 b5 idx => exact absurd rfl (htog b7 b5 idx)
  | _ => rfl

/-- Settles O55: the frame of the receiver and that of the ports, together. -/
theorem onlyTheReceivePathTouchesTheReceiver : Obligations.OnlyTheReceivePathTouchesTheReceiver := by
  intro i s t h
  obtain ⟨hparams, hscript, hrx, htx⟩ := exec_portsFrame h
  refine ⟨fun hbyte hend hreset => ?_, fun hcmd htog => htx (transmits_eq_false hcmd htog), hscript, hparams⟩
  have hquiet : touchesReceiver i = false := touchesReceiver_eq_false hbyte hend hreset
  obtain ⟨-, hbuf, hdrop⟩ := exec_sameReceiver hquiet h
  exact ⟨hbuf, hdrop, hrx hquiet⟩

/-! ### Which working register each operation may write -/

/-- Settles O56: an operation writes no working register, or `crc`, or `i` and `out`, or `i` and `events`, or, as RxStep,
all four. -/
theorem operationsWriteOnlyTheirWorkingRegisters : Obligations.OperationsWriteOnlyTheirWorkingRegisters := by
  intro i s t hop h
  cases i with
  | encode | decodeEventByte | reset =>
    cases h; exact ⟨rfl, rfl, fun _ _ => rfl, fun _ _ => rfl, fun _ _ => rfl, fun _ _ => rfl⟩
  | mkToggle idx =>
    obtain ⟨-, rfl⟩ := (execMkToggle_next idx s t).mp h
    exact ⟨rfl, rfl, fun _ _ => rfl, fun _ _ => rfl, fun _ _ => rfl, fun _ _ => rfl⟩
  | compute | appendChecksum | verify | checkPayload =>
    cases h; exact ⟨rfl, rfl, fun hcrc => by simp at hcrc, fun _ _ => rfl, fun _ _ => rfl, fun _ _ => rfl⟩
  | encodeCommand cs =>
    obtain ⟨-, rfl⟩ := (execEncodeCommand_next cs s t).mp h
    exact ⟨rfl, rfl, fun hcrc => by simp at hcrc, fun _ _ => rfl, fun _ _ => rfl, fun _ _ => rfl⟩
  | decode f =>
    cases h
    exact ⟨rfl, rfl, fun _ _ => rfl, fun hi => absurd rfl (hi f).1, fun hout => absurd rfl (hout f), fun _ _ => rfl⟩
  | decodeTelemetry c =>
    cases h
    obtain ⟨-, -, -, hcrc, hout, hctx, hunread, -⟩ := telemetryDone_frame s c
    exact ⟨hctx, hunread, fun _ _ => hcrc, fun hi => absurd rfl (hi c).2, fun _ _ => hout,
      fun hevents => absurd rfl (hevents c)⟩
  | feed b =>
    cases h
    obtain ⟨-, hcrc, hevents, hctx, hunread, -⟩ := feedByte_frame b s
    exact ⟨hctx, hunread, fun _ _ => hcrc, fun _ hi => absurd rfl (hi b).1, fun _ hout => absurd rfl (hout b).1,
      fun _ _ => hevents⟩
  | rxStep b =>
    cases h
    obtain ⟨-, -, -, hctx, hunread, -⟩ := rxByte_frame b s
    exact ⟨hctx, hunread, fun _ hcrc => absurd rfl (hcrc b), fun _ hi => absurd rfl (hi b).2,
      fun _ hout => absurd rfl (hout b).2, fun _ hevents => absurd rfl (hevents b)⟩
  | _ => cases hop

/-! ### No operation reads a working register it has not initialised -/

/-- Equal in all that an operation shows: its result, the receiver and the logs. -/
structure SameShown (t u : State) : Prop where
  result : u.result = t.result
  rxbuf : u.rxbuf = t.rxbuf
  rxdrop : u.rxdrop = t.rxdrop
  txLog : u.txLog = t.txLog
  rxLog : u.rxLog = t.rxLog
  rxIndex : u.rxIndex = t.rxIndex

/-- The state with other contents of the working registers. -/
def State.withWorking (s : State) (c : U16) (n : Nat) (o : List Byte) (e : List Event) : State :=
  { s with crc := c, i := n, out := o, events := e }

/-- A receive part shows the same whatever the working registers hold. -/
theorem ReceivePart.sameShown_withWorking {f : State → State × Result} (hf : ReceivePart f) (s : State) (c : U16)
    (n : Nat) (o : List Byte) (e : List Event) :
    SameShown ((f s).1.deliver (f s).2)
      ((f (s.withWorking c n o e)).1.deliver (f (s.withWorking c n o e)).2) := by
  obtain ⟨hres, hbuf, hdrop⟩ := hf.reads s (s.withWorking c n o e) ⟨rfl, rfl, rfl⟩
  refine ⟨hres, hbuf, hdrop, ?_, ?_, ?_⟩
  · simp only [deliver_txLog, hf.txLog]; rfl
  · simp only [deliver_rxLog, hf.rxLog, hf.rxIndex, hres]; rfl
  · simp only [deliver_rxIndex, hf.rxIndex]; rfl

/-- An operation that answers shows the same whatever the working registers hold (rule R31). -/
theorem exec_sameShown_withWorking {op : Instr} {s t : State} (c : U16) (n : Nat) (o : List Byte) (e : List Event)
    (hop : encode op = none) (h : exec op s = .next t) :
    ∃ u, exec op (s.withWorking c n o e) = .next u ∧ SameShown t u := by
  cases op with
  | feed b => cases h; exact ⟨_, rfl, (feedByte_receivePart b).sameShown_withWorking s c n o e⟩
  | rxStep b => cases h; exact ⟨_, rfl, (rxByte_receivePart b).sameShown_withWorking s c n o e⟩
  | mkToggle idx =>
    obtain ⟨hidx, rfl⟩ := (execMkToggle_next idx s t).mp h
    exact ⟨_, (execMkToggle_next idx _ _).mpr ⟨hidx, rfl⟩, rfl, rfl, rfl, rfl, rfl, rfl⟩
  | encodeCommand cs =>
    obtain ⟨hfits, rfl⟩ := (execEncodeCommand_next cs s t).mp h
    exact ⟨_, (execEncodeCommand_next cs _ _).mpr ⟨hfits, rfl⟩, rfl, rfl, rfl, rfl, rfl, rfl⟩
  | decodeTelemetry content =>
    cases h
    obtain ⟨-, hbuf, hdrop, -, -, -, -, -, -, htx, hrx, hix⟩ := telemetryDone_frame s content
    obtain ⟨-, hbuf', hdrop', -, -, -, -, -, -, htx', hrx', hix'⟩ :=
      telemetryDone_frame (s.withWorking c n o e) content
    exact ⟨_, rfl, rfl, hbuf'.trans hbuf.symm, hdrop'.trans hdrop.symm, htx'.trans htx.symm, hrx'.trans hrx.symm,
      hix'.trans hix.symm⟩
  | encode | decode | compute | appendChecksum | verify | decodeEventByte | checkPayload | reset =>
    cases h; exact ⟨_, rfl, rfl, rfl, rfl, rfl, rfl, rfl⟩
  | _ => cases hop

/-- Settles O57: the receive path reads the buffer, the drop flag and MAX_FRAME only, and every other operation its
operands and MAX_TX_CONTENT. -/
theorem workingRegistersAreDeadBetweenOperations : Obligations.WorkingRegistersAreDeadBetweenOperations := by
  intro op s t c n o e hop h
  obtain ⟨u, hu, hres, hbuf, hdrop, htx, hrx, hix⟩ := exec_sameShown_withWorking c n o e hop h
  exact ⟨u, hu, hres, hbuf, hdrop, htx, hrx, hix⟩

/-! ### No instruction reads the last result

The state with another last result is `s.answer r`; whatever an instruction does ends in `answer`, `deliver` or
`transmit`, each of which writes the result again. -/

section LastResult

variable (s : State) (r : Result)

theorem telemetryDone_answer (c : List Byte) : (s.answer r).telemetryDone c = (s.telemetryDone c).answer r := by
  unfold State.telemetryDone
  split <;> rfl

theorem feedEnd_answer : feedEnd (s.answer r) = ((feedEnd s).1.answer r, (feedEnd s).2) := by
  simp only [feedEnd, answer_rxdrop, answer_rxbuf]
  by_cases hd : s.rxdrop = true
  · simp only [hd, ↓reduceIte]; rfl
  · by_cases hs : shortStretch s.rxbuf = true <;> simp only [hd, hs, ↓reduceIte] <;> rfl

theorem feedData_answer (b : Byte) : feedData b (s.answer r) = ((feedData b s).1.answer r, (feedData b s).2) := by
  simp only [feedData, answer_rxdrop, answer_rxbuf, answer_params]
  by_cases hd : s.rxdrop = true
  · simp only [hd, ↓reduceIte]
  · by_cases hf : bufferFull s.params s.rxbuf = true <;> simp only [hd, hf, ↓reduceIte] <;> rfl

theorem feedByte_answer (b : Byte) : feedByte b (s.answer r) = ((feedByte b s).1.answer r, (feedByte b s).2) := by
  unfold feedByte
  split
  · exact feedEnd_answer s r
  · exact feedData_answer s r b

theorem payloadStep_answer (p : List Byte) :
    payloadStep p (s.answer r) = ((payloadStep p s).1.answer r, (payloadStep p s).2) := by
  unfold payloadStep
  split
  · rw [← telemetryDone_answer]; rfl
  · rfl

theorem rxByte_answer (b : Byte) : rxByte b (s.answer r) = ((rxByte b s).1.answer r, (rxByte b s).2) := by
  simp only [rxByte, feedByte_answer]
  split
  · exact payloadStep_answer _ r _
  · rfl

/-- A receive operation that passes the last result on does not show it: the delivery writes its own. -/
theorem nextDeliver_answer {f : State → State × Result} (hf : f (s.answer r) = ((f s).1.answer r, (f s).2)) :
    (Host.Outcome.next ((f (s.answer r)).1.deliver (f (s.answer r)).2) : Host.Outcome State Fault Refusal) =
      .next ((f s).1.deliver (f s).2) := by
  rw [hf]; rfl

/-- No instruction reads the last result: outside the receive operations and DecodeTelemetry, which pass it on to the
write of their own, the two sides compute to the same outcome. -/
theorem exec_answer (i : Instr) : exec i (s.answer r) = exec i s := by
  cases i with
  | endMark => exact nextDeliver_answer s r (feedEnd_answer s r)
  | data b => exact nextDeliver_answer s r (feedData_answer s r b)
  | feed b => exact nextDeliver_answer s r (feedByte_answer s r b)
  | rxStep b => exact nextDeliver_answer s r (rxByte_answer s r b)
  | decodeTelemetry c =>
    exact congrArg (fun u => Host.Outcome.next (u.answer (telemetryResult c))) (telemetryDone_answer s r c)
  | _ => rfl

end LastResult

/-- Settles O58: every instruction writes its own result over the last one, and reads no result. -/
theorem noInstructionReadsTheLastResult : Obligations.NoInstructionReadsTheLastResult :=
  fun i s r => exec_answer s r i

end Sys2Proof.Machine
end

section
/-! PROOFS. Sequences of bytes (spec/20_memory.md): a batch of received bytes presented to the receiver in order, and an
outbound content presented to the Command Encoder byte by byte. -/

namespace Sys2Proof.Machine

open Sys2Proof

/-! ### Steps and runs -/

theorem step_instr {s t : State} {i : Instr} (h : fetch s = .instr i t) : step s = exec i t := by
  simp [step, h]

theorem step_command {s t : State} {b : Byte} (h : fetch s = .command b t) : step s = marshalByte b t := by
  simp [step, h]

/-- With no byte to read, the first statement of the script is fetched, the rest of the script left to run. -/
theorem fetch_stmt (st : Stmt) (more : List Stmt) {s : State} (hu : s.unread = []) :
    fetch { s with script := st :: more } = fetchStmt st { s with script := more } :=
  fetch_script _ hu

theorem run_refused (k : Nat) {s : State} {r : Refusal} (h : step s = .refused r) :
    Host.Core.run core (k + 1) s = .refused r := by
  have h' : core.step s = .refused r := h
  simp [Host.Core.run, h']

theorem run_one (s : State) : Host.Core.run core 1 s = step s := by
  cases h : step s with
  | next t => exact run_next 0 s t h
  | fault r => cases r
  | refused r => exact run_refused 0 h

/-! ### Batches (rule R66, rule R99) -/

/-- The statement `stmt` presents its bytes in order to the operation `call`, whose whole effect is `op`. The script
does not enter `op`, and `op` leaves it and the sequence being read alone. -/
structure Presents (stmt : List Byte → Stmt) (call : Byte → Instr) (op : State → Byte → State) : Prop where
  fetched : ∀ (s : State) (b : Byte) (bs : List Byte),
    fetchStmt (stmt (b :: bs)) s = .instr (call b) { s with script := batch stmt bs s.script }
  answers : ∀ (s : State) (b : Byte), exec (call b) s = .next (op s b)
  withScript : ∀ (s : State) (b : Byte) (script : List Stmt),
    op { s with script := script } b = { op s b with script := script }
  unread : ∀ (s : State) (b : Byte), (op s b).unread = s.unread

section Presents

variable {stmt : List Byte → Stmt} {call : Byte → Instr} {op : State → Byte → State}

/-- One step takes the first byte of a batch and puts the rest back ahead of the script. -/
theorem Presents.step_cons (h : Presents stmt call op) (b : Byte) (bs : List Byte) (more : List Stmt) {s : State}
    (hu : s.unread = []) :
    step { s with script := stmt (b :: bs) :: more } = .next { op s b with script := batch stmt bs more } := by
  have hfetch : fetch { s with script := stmt (b :: bs) :: more } =
      .instr (call b) { s with script := batch stmt bs more } :=
    (fetch_stmt _ more hu).trans (h.fetched _ b bs)
  rw [step_instr hfetch, h.answers, h.withScript s b (batch stmt bs more)]

/-- A batch, the empty one included, runs the operation on each of its bytes in order, ahead of the rest of the
script. -/
theorem Presents.run_batch (h : Presents stmt call op) (bytes : List Byte) (more : List Stmt) {s : State}
    (hu : s.unread = []) :
    Host.Core.run core bytes.length { s with script := batch stmt bytes more } =
      .next (bytes.foldl op { s with script := more }) := by
  induction bytes generalizing s with
  | nil => rfl
  | cons b bs ih =>
    have hop : (op s b).unread = [] := (h.unread s b).trans hu
    calc Host.Core.run core (bs.length + 1) { s with script := stmt (b :: bs) :: more }
      _ = Host.Core.run core bs.length { op s b with script := batch stmt bs more } :=
        run_next _ _ _ (h.step_cons b bs more hu)
      _ = .next (bs.foldl op { op s b with script := more }) := ih hop
      _ = .next (bs.foldl op (op { s with script := more } b)) := by rw [h.withScript s b more]

/-- The same for a statement that comes first in the script, with nothing being read. -/
theorem Presents.run_stmt (h : Presents stmt call op) {bytes : List Byte} (hne : bytes ≠ []) (more : List Stmt)
    (s : State) :
    Host.Core.run core bytes.length (s.withScript (stmt bytes :: more)) =
      .next (bytes.foldl op (s.withScript more)) := by
  cases bytes with
  | nil => exact absurd rfl hne
  | cons b bs => exact h.run_batch (b :: bs) more (s := s.withScript more) rfl

end Presents

/-- The caller's script does not enter what Feed does. -/
theorem feedByte_withScript (b : Byte) (s : State) (script : List Stmt) :
    feedByte b { s with script := script } = ({ (feedByte b s).1 with script := script }, (feedByte b s).2) := by
  unfold feedByte
  split
  · simp only [feedEnd]
    split
    · rfl
    · split <;> rfl
  · simp only [feedData]
    split
    · rfl
    · split <;> rfl

theorem presents_feed : Presents .feed .feed State.fed where
  fetched _ _ _ := rfl
  answers _ _ := rfl
  withScript s b script := by simp only [State.fed, feedByte_withScript]; rfl
  unread s b := by
    obtain ⟨-, -, -, -, hunread, -⟩ := feedByte_frame b s
    exact hunread

theorem presents_rx : Presents .rx .rxStep State.rxStepped where
  fetched _ _ _ := rfl
  answers _ _ := rfl
  withScript s b script := by simp only [State.rxStepped, rxByte_withScript]; rfl
  unread s b := by
    obtain ⟨-, -, -, -, hunread, -⟩ := rxByte_frame b s
    exact hunread

/-- Settles O8: `feed` presents its bytes to Feed and `rx` presents them to RxStep. -/
theorem feedStatementFeedsEachByteInOrder : Obligations.FeedStatementFeedsEachByteInOrder :=
  fun s _ more hne => ⟨presents_feed.run_stmt hne more s, presents_rx.run_stmt hne more s⟩

/-! ### The cases of one marshalled byte (rule R57, rule R181) -/

theorem exceedsTxContent_eq_false_iff (p : Config.Params) (n : Nat) :
    exceedsTxContent p n = false ↔ ∀ m, p.maxTxContent = some m → n ≤ m := by
  rw [← Bool.not_eq_true, exceedsTxContent_iff]
  simp

theorem marshalByte_refused (b : Byte) {s : State}
    (hx : exceedsTxContent s.params (s.i + 1 + s.unread.length) = true) :
    marshalByte b s = .refused (.contentTooLong (s.i + 1 + s.unread.length)) := if_pos hx

theorem marshalByte_more (b : Byte) {s : State}
    (hx : exceedsTxContent s.params (s.i + 1 + s.unread.length) = false) (hu : s.unread ≠ []) :
    marshalByte b s =
      .next { s with i := s.i + 1, out := s.out ++ [b], crc := crcByte s.crc b, result := .none } := by
  rw [marshalByte, hx, if_neg Bool.false_ne_true, if_neg hu]; rfl

theorem marshalByte_last (b : Byte) {s : State}
    (hx : exceedsTxContent s.params (s.i + 1 + s.unread.length) = false) (hu : s.unread = []) :
    marshalByte b s =
      .next ({ s with i := s.i + 1, out := s.out ++ [b], crc := crcByte s.crc b, ctx := .stream }.transmit
        (encodeFrame (withChecksum (s.out ++ [b]) (crcByte s.crc b)))) := by
  rw [marshalByte, hx, if_neg Bool.false_ne_true, if_pos hu]
  simp only [State.endSequence, hu]

/-- Narrowing to a byte masks already. -/
theorem setWidth_and_0xFF (c : U16) : (c &&& 0xFF#16).setWidth 8 = c.setWidth 8 := by
  rw [BitVec.setWidth_and]
  exact BitVec.and_allOnes

/-- Rule R87, written with its masks, gives the model's two checksum bytes. -/
theorem withChecksum_eq_masked (content : List Byte) (c : U16) :
    withChecksum content c =
      content ++ [((c >>> 8) &&& 0xFF#16).setWidth 8, (c &&& 0xFF#16).setWidth 8] := by
  rw [setWidth_and_0xFF, setWidth_and_0xFF]; rfl

/-- Settles O31: the row marshals the byte it stands for, and the three clauses are the three cases of that. -/
theorem commandRowJoinsTheContent : Obligations.CommandRowJoinsTheContent := by
  rintro s b7 b5 idx _ ⟨⟩
  refine ⟨fun m hm hlt => ?_, fun hfits hu => ?_, fun hfits hu => ?_⟩
  · exact marshalByte_refused _ ((exceedsTxContent_iff _ _).mpr ⟨m, hm, hlt⟩)
  · exact marshalByte_more _ ((exceedsTxContent_eq_false_iff _ _).mpr hfits) hu
  · refine ⟨_, _, rfl, rfl, ?_⟩
    rw [← withChecksum_eq_masked]
    exact marshalByte_last _ ((exceedsTxContent_eq_false_iff _ _).mpr hfits) hu

/-! ### An outbound content read byte by byte (rule R181, rule R182) -/

/-- A byte is its fields (rule R83, rule R84). -/
theorem fieldByte_fields (b : Byte) : fieldByte (bit7 b) (bit6 b) (bit5 b) (indexField b) = b := by
  refine BitVec.eq_of_getLsbD_eq fun k hk => ?_
  simp only [fieldByte, bit7, bit6, bit5, indexField, BitVec.getLsbD_append]
  interval_cases k <;> simp

/-- In an outbound content every byte is marshalled, as the row CMD.TOGGLE or, with bit 6 clear, as no row (rule
R182). -/
theorem step_outbound {s : State} {b : Byte} {bs : List Byte} (hc : s.ctx = .outbound) (hu : s.unread = b :: bs) :
    step s = marshalByte b { s with unread := bs } := by
  cases hb : bit6 b with
  | true =>
    have hdec : decode s.ctx s.unread = .instr (.cmdToggle (bit7 b) (bit5 b) (indexField b)) bs := by
      simp [hc, hu, decode, decodeCommand, hb]
    have hbyte : fieldByte (bit7 b) true (bit5 b) (indexField b) = b := hb ▸ fieldByte_fields b
    rw [step_instr (fetch_row s _ bs hdec)]
    exact congrArg (marshalByte · _) hbyte
  | false =>
    have hdec : decode s.ctx s.unread = .rejected (.undefinedCommandByte b) := by
      simp [hc, hu, decode, decodeCommand, hb]
    refine step_command ?_
    rw [fetch, hdec]
    simp only [hu, List.tail_cons]

/-- The state when the bytes `cs` have joined the outbound content and its frame has left. -/
def State.marshalled (s : State) (cs : List Byte) : State :=
  ({ s with i := s.i + cs.length, out := s.out ++ cs, crc := cs.foldl crcByte s.crc }.endSequence).transmit
    (encodeFrame (withChecksum (s.out ++ cs) (cs.foldl crcByte s.crc)))

/-- What comes of an outbound content when `cs` is the rest of it: the refusal, or the frame. -/
def marshalAll (cs : List Byte) (s : State) : Host.Outcome State Fault Refusal :=
  if exceedsTxContent s.params (s.i + cs.length) then .refused (.contentTooLong (s.i + cs.length))
  else .next (s.marshalled cs)

theorem marshalAll_singleton (b : Byte) (s : State) : marshalAll [b] s = marshalByte b { s with unread := [] } := rfl

/-- After one more byte than before, one byte less is to come: the outcome is the same. -/
theorem marshalAll_cons (b : Byte) (bs u : List Byte) (r : Result) (s : State) :
    marshalAll bs { s with i := s.i + 1, out := s.out ++ [b], crc := crcByte s.crc b, unread := u, result := r } =
      marshalAll (b :: bs) s := by
  have hlen : s.i + 1 + bs.length = s.i + (bs.length + 1) := by omega
  simp [marshalAll, State.marshalled, State.transmit, State.endSequence, hlen]

/-- Reading the rest of an outbound content byte by byte marshals it whole: a refusal comes at the first byte or at
none. -/
theorem run_outbound {cs : List Byte} (hne : cs ≠ []) {s : State} (hc : s.ctx = .outbound) (hu : s.unread = cs) :
    Host.Core.run core cs.length s = marshalAll cs s := by
  induction cs generalizing s with
  | nil => exact absurd rfl hne
  | cons b bs ih =>
    have hstep := step_outbound hc hu
    by_cases hbs : bs = []
    · subst hbs
      rw [marshalAll_singleton, ← hstep]
      exact run_one s
    · cases hx : exceedsTxContent s.params (s.i + 1 + bs.length) with
      | true =>
        rw [marshalByte_refused b hx] at hstep
        rw [List.length_cons, run_refused _ hstep, ← marshalAll_cons b bs [] .none s]
        exact (if_pos hx).symm
      | false =>
        rw [marshalByte_more b hx hbs] at hstep
        rw [List.length_cons, run_next _ _ _ hstep, ← marshalAll_cons b bs bs .none s]
        exact ih hbs hc rfl

/-- EncodeCommand is the marshalling of a whole content, begun at its first byte; the working registers `i` and `out`
are the marshalling's own. -/
theorem marshalAll_eq_encodeCommand (cs : List Byte) (ctx : Context) (u : List Byte) (s : State) :
    marshalAll cs (s.beginSequence ctx u) =
      exec (.encodeCommand cs) { s.beginSequence .stream [] with i := cs.length, out := cs } := by
  simp only [marshalAll, State.marshalled, beginSequence_i, beginSequence_out, Nat.zero_add, List.nil_append]
  rfl

/-- Settles O32: byte by byte the whole content is marshalled, which is EncodeCommand. -/
theorem rowByRowCommandsAreEncodeCommand : Obligations.RowByRowCommandsAreEncodeCommand :=
  fun _ cs hne => (run_outbound hne rfl rfl).trans (marshalAll_eq_encodeCommand cs _ _ _)

end Sys2Proof.Machine
end

section
/-! PROOFS. The encodings (spec/30_encoding.md): the decoder and the encoder of the opcode table, what a step makes of a
decoded row and of a statement, and the sequences read row by row: a scan and a telemetry content. -/

namespace Sys2Proof.Machine

open Sys2Proof

/-! ### The fields of a byte put together from its fields (rule R83, rule R84, rule R88) -/

section Fields

variable (b7 b6 b5 : Bool) (low : BitVec 5)

@[simp] theorem bit7_fieldByte : bit7 (fieldByte b7 b6 b5 low) = b7 := by
  simp only [bit7, fieldByte, BitVec.getLsbD_append]; simp

@[simp] theorem bit6_fieldByte : bit6 (fieldByte b7 b6 b5 low) = b6 := by
  simp only [bit6, fieldByte, BitVec.getLsbD_append]; simp

@[simp] theorem bit5_fieldByte : bit5 (fieldByte b7 b6 b5 low) = b5 := by
  simp only [bit5, fieldByte, BitVec.getLsbD_append]; simp

@[simp] theorem indexField_fieldByte : indexField (fieldByte b7 b6 b5 low) = low := by
  refine BitVec.eq_of_getLsbD_eq fun k hk => ?_
  simp only [indexField, BitVec.getLsbD_extractLsb', fieldByte, BitVec.getLsbD_append]; simp [hk]

end Fields

/-! ### The default rows (rule R100) -/

theorem decodeStream_data {b : Byte} (h : b ≠ Config.endByte) : decodeStream b = .data b := if_neg h

theorem decodeScan_lit {b : Byte} (hesc : b ≠ Config.escByte) (hend : b ≠ Config.endByte) :
    decodeScan b = .lit b := by
  rw [decodeScan, if_neg hesc, if_neg hend]

theorem decodeAfterEsc_badEsc {b : Byte} (hend : b ≠ Config.escEndByte) (hesc : b ≠ Config.escEscByte) :
    decodeAfterEsc b = .badEsc b := by
  rw [decodeAfterEsc, if_neg hend, if_neg hesc]

/-! ### The decoder undoes the encoder -/

/-- The raw bytes of a well-formed row decode to the row, whatever follows. -/
theorem decode_encode {i : Instr} {ctx : Context} {bytes : List Byte} (rest : List Byte) (hwf : i.wf = true)
    (h : encode i = some (ctx, bytes)) : decode ctx (bytes ++ rest) = .instr i rest := by
  cases i with
  | data b =>
    cases h
    exact congrArg (Decoded.instr · rest) (decodeStream_data (bne_iff_ne.mp hwf))
  | lit b =>
    cases h
    obtain ⟨hesc, hend⟩ := (Bool.and_eq_true _ _).mp hwf
    exact congrArg (Decoded.instr · rest) (decodeScan_lit (bne_iff_ne.mp hesc) (bne_iff_ne.mp hend))
  | badEsc b =>
    cases h
    obtain ⟨hend, hesc⟩ := (Bool.and_eq_true _ _).mp hwf
    exact congrArg (Decoded.instr · rest) (decodeAfterEsc_badEsc (bne_iff_ne.mp hend) (bne_iff_ne.mp hesc))
  | cmdToggle | evtPress | evtRelease | evtPad => cases h; simp [decode, decodeCommand, decodeEvent]
  | endMark | esc | rawEnd | escEnd | escEsc | pairEnd | pairEsc => cases h; rfl
  | _ => cases h

/-- Settles O1: row by row of the table, the default rows by their well-formedness, the Command and Event Byte rows by
their fields. -/
theorem decodeInvertsEncode : Obligations.DecodeInvertsEncode :=
  fun _ _ _ rest hwf h => decode_encode rest hwf h

/-! ### Every byte begins a row of its context -/

/-- `i` is a well-formed row of the context, with these raw bytes. -/
structure IsRow (i : Instr) (ctx : Context) (bytes : List Byte) : Prop where
  wf : i.wf = true
  encode : encode i = some (ctx, bytes)

theorem decodeStream_isRow (b : Byte) : IsRow (decodeStream b) .stream [b] := by
  unfold decodeStream
  split
  · next h => subst h; exact ⟨rfl, rfl⟩
  · next h => exact ⟨bne_iff_ne.mpr h, rfl⟩

theorem decodeScan_isRow (b : Byte) : IsRow (decodeScan b) .scan [b] := by
  unfold decodeScan
  split
  · next h => subst h; exact ⟨rfl, rfl⟩
  · next hesc =>
    split
    · next h => subst h; exact ⟨rfl, rfl⟩
    · next hend => exact ⟨by simp [Instr.wf, hesc, hend], rfl⟩

theorem decodeAfterEsc_isRow (b : Byte) : IsRow (decodeAfterEsc b) .afterEsc [b] := by
  unfold decodeAfterEsc
  split
  · next h => subst h; exact ⟨rfl, rfl⟩
  · next hend =>
    split
    · next h => subst h; exact ⟨rfl, rfl⟩
    · next hesc => exact ⟨by simp [Instr.wf, hend, hesc], rfl⟩

/-- A byte with bit 6 set is the toggle row of its fields (rule R83). -/
theorem cmdToggle_isRow {b : Byte} (h6 : bit6 b = true) :
    IsRow (.cmdToggle (bit7 b) (bit5 b) (indexField b)) .outbound [b] := by
  have hb := fieldByte_fields b
  rw [h6] at hb
  exact ⟨rfl, by rw [encode, hb]⟩

theorem decodeEvent_isRow (b : Byte) : IsRow (decodeEvent b) .telemetry [b] := by
  have hb := fieldByte_fields b
  unfold decodeEvent
  split
  · next h6 =>
    split
    · next h7 => rw [h6, h7] at hb; exact ⟨rfl, by rw [encode, hb]⟩
    · next h7 => rw [h6, Bool.eq_false_of_not_eq_true h7] at hb; exact ⟨rfl, by rw [encode, hb]⟩
  · next h6 => rw [Bool.eq_false_of_not_eq_true h6] at hb; exact ⟨rfl, by rw [Sys2Proof.encode, hb]⟩

/-- A code word of an escaped payload is a legal pair, or its first byte read in context SCAN (rule R81, rule R96). -/
theorem decodeEscaped_cases (b : Byte) (rest : List Byte) :
    (∃ i t more, rest = t :: more ∧ IsRow i .escaped [b, t] ∧ decodeEscaped b rest = .instr i more) ∨
    decodeEscaped b rest = .instr (decodeScan b) rest := by
  unfold decodeEscaped
  split
  · next t more =>
    split
    · next h => obtain ⟨rfl, rfl⟩ := h; exact .inl ⟨_, _, _, rfl, ⟨rfl, rfl⟩, rfl⟩
    · split
      · next h => obtain ⟨rfl, rfl⟩ := h; exact .inl ⟨_, _, _, rfl, ⟨rfl, rfl⟩, rfl⟩
      · exact .inr rfl
  · exact .inr rfl

/-- Settles O2: each context's decoder answers a row of its own context, but for the escaped payload, which falls back
on SCAN, and the outbound byte with bit 6 clear, which is rejected. -/
theorem everyByteBeginsOneRow : Obligations.EveryByteBeginsOneRow := by
  intro ctx b rest
  cases ctx with
  | stream =>
    obtain ⟨hwf, henc⟩ := decodeStream_isRow b
    exact .inl ⟨_, _, _, rest, rfl, hwf, henc, rfl, .inl rfl⟩
  | scan =>
    obtain ⟨hwf, henc⟩ := decodeScan_isRow b
    exact .inl ⟨_, _, _, rest, rfl, hwf, henc, rfl, .inl rfl⟩
  | afterEsc =>
    obtain ⟨hwf, henc⟩ := decodeAfterEsc_isRow b
    exact .inl ⟨_, _, _, rest, rfl, hwf, henc, rfl, .inl rfl⟩
  | telemetry =>
    obtain ⟨hwf, henc⟩ := decodeEvent_isRow b
    exact .inl ⟨_, _, _, rest, rfl, hwf, henc, rfl, .inl rfl⟩
  | escaped =>
    rcases decodeEscaped_cases b rest with ⟨i, t, more, rfl, ⟨hwf, henc⟩, hdec⟩ | hdec
    · exact .inl ⟨i, _, _, more, hdec, hwf, henc, rfl, .inl rfl⟩
    · obtain ⟨hwf, henc⟩ := decodeScan_isRow b
      exact .inl ⟨_, _, _, rest, hdec, hwf, henc, rfl, .inr ⟨rfl, rfl⟩⟩
  | outbound =>
    cases h6 : bit6 b with
    | true =>
      obtain ⟨hwf, henc⟩ := cmdToggle_isRow h6
      exact .inl ⟨_, _, _, rest, if_pos h6, hwf, henc, rfl, .inl rfl⟩
    | false => exact .inr ⟨rfl, h6, by simp [decode, decodeCommand, h6]⟩

/-- Settles O3: the fourteen words, each decoded by evaluation. -/
theorem wordsOfTheTableDecode : Obligations.WordsOfTheTableDecode := by
  unfold Obligations.WordsOfTheTableDecode
  decide

/-! ### What a step runs -/

theorem step_decoded {s : State} {i : Instr} {rest : List Byte} (h : decode s.ctx s.unread = .instr i rest) :
    step s = exec i { s with unread := rest } :=
  step_instr (fetch_row s i rest h)

/-- Settles O4: the row is fetched, and what is fetched is run. -/
theorem stepRunsTheDecodedRow : Obligations.StepRunsTheDecodedRow := fun _ _ _ h => step_decoded h

/-- The statement that calls an operation begins that operation, and leaves nothing else ahead of the script. -/
theorem fetchStmt_callOf {i : Instr} (h : encode i = none) :
    ∃ st, callOf i = [st] ∧ ∀ s, fetchStmt st s = .instr i s := by
  cases i with
  | encode | decode | compute | appendChecksum | verify | mkToggle | encodeCommand | feed | decodeEventByte
  | decodeTelemetry | checkPayload | rxStep | reset => exact ⟨_, rfl, fun _ => rfl⟩
  | _ => cases h

/-- Settles O5: with nothing to read the script is fetched, and its first statement begins the operation. -/
theorem stepRunsTheCalledOperation : Obligations.StepRunsTheCalledOperation := by
  intro s i more henc hunread hscript
  obtain ⟨st, hcall, hfetch⟩ := fetchStmt_callOf henc
  rw [hcall] at hscript
  refine step_instr ?_
  rw [fetch_script s hunread, fetchScript, hscript]
  exact hfetch _

/-- A table word that names an instruction is the raw bytes of that instruction, in the word's context. -/
theorem decodeTableWord_eq_some {nbits w : Nat} {i : Instr} (h : decodeTableWord nbits w = some i) :
    ∃ bytes, tableBytes nbits w = some bytes ∧ decode (tableContext bytes) bytes = .instr i [] := by
  unfold decodeTableWord at h
  split at h
  · cases h
  · next bytes hbytes =>
    refine ⟨bytes, hbytes, ?_⟩
    split at h
    · next j hdec => cases h; exact hdec
    · cases h
    · cases h

/-- Settles O6: the word's bytes are the sequence begun, and they decode to the instruction with nothing left. -/
theorem tableWordRunsAtTheNextStep : Obligations.TableWordRunsAtTheNextStep := by
  intro s nbits w i h
  obtain ⟨bytes, hbytes, hdec⟩ := decodeTableWord_eq_some h
  have hplaced : s.withFetchWord nbits w = s.beginSequence (tableContext bytes) bytes := by
    simp only [State.withFetchWord, State.withTableWord, hbytes]
  rw [hplaced]
  exact ⟨_, step_decoded hdec, rfl, rfl, rfl, rfl, rfl, rfl, rfl, rfl⟩

/-! ### The statement `loop` (rule R99, decision D19) -/

theorem step_moved {s t : State} (h : fetch s = .moved t) : step s = .next t := by
  simp [step, h]

section Presents

variable {stmt : List Byte → Stmt} {call : Byte → Instr} {op : State → Byte → State}

/-- The script does not enter the effect of a batch. -/
theorem Presents.foldl_withScript (h : Presents stmt call op) (bytes : List Byte) (script : List Stmt) (s : State) :
    bytes.foldl op { s with script := script } = { bytes.foldl op s with script := script } := by
  induction bytes generalizing s with
  | nil => rfl
  | cons b bs ih => rw [List.foldl_cons, h.withScript, ih, List.foldl_cons]

/-- A batch leaves the sequence being read alone. -/
theorem Presents.foldl_unread (h : Presents stmt call op) (bytes : List Byte) (s : State) :
    (bytes.foldl op s).unread = s.unread := by
  induction bytes generalizing s with
  | nil => rfl
  | cons b bs ih => exact (ih _).trans (h.unread s b)

end Presents

/-- The second half of `loop`, with nothing being read. -/
theorem step_emptyTxLog {s : State} {more : List Stmt} (hu : s.unread = []) (hs : s.script = more) :
    step { s with script := .emptyTxLog :: more } = .next { s with txLog := [] } := by
  subst hs
  exact step_moved (fetch_stmt .emptyTxLog s.script hu)

/-- Settles O9: one step places the batch, one step a byte feeds it, and one step empties the transmit log. -/
theorem loopFeedsTheTransmitLogThenEmptiesIt : Obligations.LoopFeedsTheTransmitLogThenEmptiesIt := by
  intro s more
  have hplace : step (s.withScript (.loop :: more)) =
      .next (s.withScript (batch .feed s.txLog.flatten (.emptyTxLog :: more))) := step_moved rfl
  have hfeed : Host.Core.run core s.txLog.flatten.length
      (s.withScript (batch .feed s.txLog.flatten (.emptyTxLog :: more))) =
      .next { (s.withScript more).fedAll s.txLog.flatten with script := .emptyTxLog :: more } :=
    (presents_feed.run_batch _ _ (s := s.withScript more) rfl).trans
      (congrArg Host.Outcome.next (presents_feed.foldl_withScript _ _ _))
  have hunread : ((s.withScript more).fedAll s.txLog.flatten).unread = [] := presents_feed.foldl_unread _ _
  have hscript : ((s.withScript more).fedAll s.txLog.flatten).script = more :=
    congrArg State.script (presents_feed.foldl_withScript _ more (s.withScript more))
  exact (run_next _ _ _ hplace).trans
    ((run_add _ 1 _ _ hfeed).trans ((run_one _).trans (step_emptyTxLog hunread hscript)))

/-! ### Runs with nothing left to do (rule R272, rule R308) -/

theorem step_idle {s : State} (hu : s.unread = []) (hs : s.script = []) : step s = .next s := by
  simp [step, fetch_script s hu, fetchScript, hs]

theorem run_idle (k : Nat) {s : State} (hu : s.unread = []) (hs : s.script = []) :
    Host.Core.run core k s = .next s := by
  induction k with
  | zero => rfl
  | succ k ih => rw [run_next k s s (step_idle hu hs), ih]

theorem run_two {s t : State} (h : step s = .next t) : Host.Core.run core 2 s = step t :=
  (run_next 1 s t h).trans (run_one t)

/-! ### The rows of a scan, one turn of the loop of Decode each (rule R81, rule R91, rule R92, rule R124) -/

theorem scanEmit_more (v : Byte) (n : Nat) {s : State} (hu : s.unread ≠ []) :
    s.scanEmit v n = { s with i := s.i + n, out := s.out ++ [v], result := .none } := by
  rcases scanEmit_cases s v n with ⟨hlast, -⟩ | ⟨-, h⟩
  · exact absurd hlast hu
  · exact h

theorem scanEmit_last (v : Byte) (n : Nat) {s : State} (hu : s.unread = []) :
    s.scanEmit v n =
      { s with i := s.i + n, out := s.out ++ [v], ctx := .stream, result := .ok (s.out ++ [v]) } := by
  rcases scanEmit_cases s v n with ⟨-, h⟩ | ⟨hmore, -⟩
  · exact h
  · exact absurd hu hmore

theorem execEsc_more {s : State} (hu : s.unread ≠ []) :
    execEsc s = .next { s with ctx := .afterEsc, result := .none } := if_neg hu

theorem execEsc_last {s : State} (hu : s.unread = []) : execEsc s = .next (s.scanRaise .truncatedEscape) := if_pos hu

/-- Where all is read already, the end of a sequence changes the context only. -/
theorem endSequence_of_read {s : State} (hu : s.unread = []) : s.endSequence = { s with ctx := .stream } := by
  simp only [State.endSequence, hu]

/-- Settles O17: every row but ESC and BAD_ESC emits one byte, with bytes left to read. -/
theorem scanRowsTakeOneTurn : Obligations.ScanRowsTakeOneTurn := by
  intro s b hu
  have emits (v : Byte) (n : Nat) :=
    congrArg (Host.Outcome.next (φ := Fault) (ρ := Refusal)) (scanEmit_more v n hu)
  have emitsBack (v : Byte) (n : Nat) :=
    congrArg (Host.Outcome.next (φ := Fault) (ρ := Refusal)) (scanEmit_more v n (s := s.backToScan) hu)
  exact ⟨execEsc_more hu, emits _ 1, emits _ 1, emitsBack _ 2, emitsBack _ 2, rfl, emits _ 2, emits _ 2⟩

/-- Settles O18: every row but ESC and BAD_ESC emits the last byte; those two raise their error. -/
theorem scanRowsEndTheLoop : Obligations.ScanRowsEndTheLoop := by
  intro s b hu
  have emits (v : Byte) (n : Nat) :=
    congrArg (Host.Outcome.next (φ := Fault) (ρ := Refusal)) (scanEmit_last v n hu)
  have emitsBack (v : Byte) (n : Nat) :=
    congrArg (Host.Outcome.next (φ := Fault) (ρ := Refusal)) (scanEmit_last v n (s := s.backToScan) hu)
  have raises (e : FrameError) :=
    congrArg (fun t => Host.Outcome.next (φ := Fault) (ρ := Refusal) (State.raise t e)) (endSequence_of_read hu)
  exact ⟨(execEsc_last hu).trans (raises _), emits _ 1, emits _ 1, emitsBack _ 2, emitsBack _ 2, raises _,
    emits _ 2, emits _ 2⟩

/-! ### A raw sequence read row by row

The two ways of reading it differ in a legal escape pair only: two rows in SCAN and AFTER_ESC, one in an escaped
payload. -/

/-- The contexts a raw sequence may begin in. -/
def ReadsRaw (ctx : Context) : Prop := ctx = .scan ∨ ctx = .escaped

/-- The second raw byte of a legal escape pair, and the payload byte the pair stands for (rule R81). -/
inductive LegalPair : Byte → Byte → Prop where
  | pairEnd : LegalPair Config.escEndByte Config.endByte
  | pairEsc : LegalPair Config.escEscByte Config.escByte

theorem scan_pair {t v : Byte} (h : LegalPair t v) (rest : List Byte) (i : Nat) (out : List Byte) :
    scan (Config.escByte :: t :: rest) i out = scan rest (i + 2) (out ++ [v]) := by
  cases h with
  | pairEnd => exact scan_pairEnd rest i out
  | pairEsc => exact scan_pairEsc rest i out

theorem decode_literal {ctx : Context} (hctx : ReadsRaw ctx) {b : Byte} (hb : b ≠ Config.escByte)
    (rest : List Byte) : decode ctx (b :: rest) = .instr (decodeScan b) rest := by
  rcases hctx with rfl | rfl
  · rfl
  · cases rest with
    | nil => rfl
    | cons t more => simp [decode, decodeEscaped, hb]

theorem decode_badTarget {ctx : Context} (hctx : ReadsRaw ctx) {t : Byte} (hend : t ≠ Config.escEndByte)
    (hesc : t ≠ Config.escEscByte) (rest : List Byte) :
    decode ctx (Config.escByte :: t :: rest) = .instr .esc (t :: rest) := by
  rcases hctx with rfl | rfl
  · rfl
  · simp [decode, decodeEscaped, decodeScan, hend, hesc]

theorem decode_truncated {ctx : Context} (hctx : ReadsRaw ctx) : decode ctx [Config.escByte] = .instr .esc [] := by
  rcases hctx with rfl | rfl <;> rfl

/-- A byte other than ESC is emitted, as RAW_END or LIT (rule R91). -/
theorem exec_decodeScan {b : Byte} (hb : b ≠ Config.escByte) (s : State) :
    exec (decodeScan b) s = .next (s.scanEmit b 1) := by
  by_cases hend : b = Config.endByte
  · subst hend; rfl
  · rw [decodeScan_lit hb hend]; rfl

theorem step_literal {s : State} (hctx : ReadsRaw s.ctx) {b : Byte} {rest : List Byte} (hu : s.unread = b :: rest)
    (hb : b ≠ Config.escByte) : step s = .next ({ s with unread := rest }.scanEmit b 1) := by
  rw [step_decoded (hu ▸ decode_literal hctx hb rest), exec_decodeScan hb]

/-- The row ESC with a byte after it; that byte is read next, in context AFTER_ESC (rule R96). -/
theorem run_escape {s : State} {t : Byte} {rest : List Byte}
    (hdec : decode s.ctx s.unread = .instr .esc (t :: rest)) :
    Host.Core.run core 2 s =
      exec (decodeAfterEsc t) { s with ctx := .afterEsc, unread := rest, result := .none } := by
  have hesc : step s = .next { s with ctx := .afterEsc, unread := t :: rest, result := .none } :=
    (step_decoded hdec).trans (execEsc_more (List.cons_ne_nil t rest))
  exact (run_two hesc).trans (step_decoded rfl)

theorem run_badTarget {s : State} (hctx : ReadsRaw s.ctx) {t : Byte} {rest : List Byte}
    (hu : s.unread = Config.escByte :: t :: rest) (hend : t ≠ Config.escEndByte) (hesc : t ≠ Config.escEscByte) :
    Host.Core.run core 2 s = .next (s.scanRaise .malformedEscapeTarget) := by
  rw [run_escape (hu ▸ decode_badTarget hctx hend hesc rest), decodeAfterEsc_badEsc hend hesc]; rfl

theorem step_truncated {s : State} (hctx : ReadsRaw s.ctx) (hu : s.unread = [Config.escByte]) :
    step s = .next (s.scanRaise .truncatedEscape) := by
  rw [step_decoded (hu ▸ decode_truncated hctx)]
  exact execEsc_last rfl

/-- A legal pair is emitted in the two rows of SCAN and AFTER_ESC, or in the one row of an escaped payload. -/
theorem run_pair {s : State} (hctx : ReadsRaw s.ctx) {t v : Byte} (ht : LegalPair t v) {rest : List Byte}
    (hu : s.unread = Config.escByte :: t :: rest) :
    ∃ m ≤ 2, Host.Core.run core m s = .next ({ s with unread := rest }.scanEmit v 2) := by
  rcases hctx with hc | hc
  · have hback : exec (decodeAfterEsc t) { s with ctx := .afterEsc, unread := rest, result := .none } =
        .next ({ s with ctx := .scan, unread := rest }.scanEmit v 2) := by cases ht <;> rfl
    refine ⟨2, Nat.le_refl 2, ?_⟩
    rw [← hc] at hback
    exact (run_escape (by rw [hc, hu]; rfl)).trans hback
  · have hrow : step s = .next ({ s with unread := rest }.scanEmit v 2) := by
      cases ht <;> exact step_decoded (by rw [hc, hu]; rfl)
    exact ⟨1, by decide, (run_one s).trans hrow⟩

/-- The state when a scan read row by row is over: the registers and the result are those of Decode. -/
def State.scanDone (s : State) (r : ScanEnd) : State := (s.endSequence.scanned r).answer (decodeResult r)

/-- Reading the raw bytes `f` row by row ends as the loop of Decode does, in at most one step a byte. -/
def ScanCompletes (f : List Byte) : Prop :=
  ∀ (s : State) (k : Nat), f ≠ [] → ReadsRaw s.ctx → s.unread = f → s.script = [] → f.length ≤ k →
    Host.Core.run core k s = .next (s.scanDone (scan f s.i s.out))

/-- After an output byte the scan goes on with the bytes left, or is over. -/
theorem ScanCompletes.emit {rest : List Byte} (ih : ScanCompletes rest) {s : State} (v : Byte) (n : Nat) {k : Nat}
    (hctx : ReadsRaw s.ctx) (hu : s.unread = rest) (hs : s.script = []) (hk : rest.length ≤ k) :
    Host.Core.run core k (s.scanEmit v n) = .next (s.scanDone (scan rest (s.i + n) (s.out ++ [v]))) := by
  by_cases hr : rest = []
  · subst hr
    have hlast : s.scanEmit v n = s.scanDone { i := s.i + n, out := s.out ++ [v], error := none } := if_pos hu
    rw [hlast, scan_nil]
    exact run_idle k rfl hs
  · rw [scanEmit_more v n (hu ▸ hr)]
    exact ih _ k hr hctx hu hs hk

theorem ScanCompletes.literal {b : Byte} {rest : List Byte} (hb : b ≠ Config.escByte) (ih : ScanCompletes rest) :
    ScanCompletes (b :: rest) := by
  intro s k _ hctx hu hs hk
  rw [List.length_cons] at hk
  obtain ⟨j, rfl⟩ := Nat.exists_eq_add_of_le' (Nat.le_of_add_left_le hk)
  rw [run_next j _ _ (step_literal hctx hu hb), scan_literal b rest _ _ hb]
  exact ih.emit b 1 hctx rfl hs (by omega)

theorem ScanCompletes.pair {t v : Byte} (ht : LegalPair t v) {rest : List Byte} (ih : ScanCompletes rest) :
    ScanCompletes (Config.escByte :: t :: rest) := by
  intro s k _ hctx hu hs hk
  simp only [List.length_cons] at hk
  obtain ⟨m, hm, hrun⟩ := run_pair hctx ht hu
  obtain ⟨j, rfl⟩ := Nat.exists_eq_add_of_le (show m ≤ k by omega)
  rw [run_add m j _ _ hrun, scan_pair ht]
  exact ih.emit v 2 hctx rfl hs (by omega)

/-- After an error of the scan nothing is left to do. -/
theorem run_scanRaise (m j : Nat) {s : State} {e : FrameError} (hs : s.script = [])
    (hrun : Host.Core.run core m s = .next (s.scanRaise e)) :
    Host.Core.run core (m + j) s = .next (s.scanDone { i := s.i, out := s.out, error := some e }) :=
  (run_add m j _ _ hrun).trans (run_idle j rfl hs)

theorem scanCompletes (f : List Byte) : ScanCompletes f := by
  induction f using scan_induction with
  | nil => exact fun s k hne => absurd rfl hne
  | literal b rest hb ih => exact ih.literal hb
  | pairEnd rest ih => exact ih.pair .pairEnd
  | pairEsc rest ih => exact ih.pair .pairEsc
  | badTarget t rest hend hesc =>
    intro s k _ hctx hu hs hk
    obtain ⟨j, rfl⟩ := Nat.exists_eq_add_of_le (show 2 ≤ k by simp at hk; omega)
    rw [scan_badTarget t rest _ _ hend hesc]
    exact run_scanRaise 2 j hs (run_badTarget hctx hu hend hesc)
  | truncated =>
    intro s k _ hctx hu hs hk
    obtain ⟨j, rfl⟩ := Nat.exists_eq_add_of_le hk
    rw [scan_truncated]
    exact run_scanRaise 1 j hs ((run_one s).trans (step_truncated hctx hu))

/-- Settles O19: begun in context SCAN. -/
theorem rowByRowScanIsDecode : Obligations.RowByRowScanIsDecode :=
  fun _ f hne => scanCompletes f _ _ hne (.inl rfl) rfl rfl (Nat.le_refl _)

/-- Settles O20: begun in an escaped payload. -/
theorem codeWordScanIsDecode : Obligations.CodeWordScanIsDecode :=
  fun _ f hne => scanCompletes f _ _ hne (.inr rfl) rfl rfl (Nat.le_refl _)

/-! ### The Event Byte rows (rule R84, rule R232, rule R234) -/

theorem eventSlot_short {s : State} (e : Option Event) (h : s.i + 1 + s.unread.length < 32) :
    s.eventSlot e = { s with ctx := .stream, unread := [], result := .error .telemetryTooShort } := by
  rcases eventSlot_cases s e with ⟨-, heq⟩ | ⟨hlong, -, -⟩ | ⟨hlast, -⟩
  · exact heq
  · omega
  · omega

theorem eventSlot_more {s : State} (e : Option Event) (hi : s.i < 31) (h : 32 ≤ s.i + 1 + s.unread.length) :
    s.eventSlot e = { s with i := s.i + 1, events := s.events ++ e.toList, result := .none } := by
  rcases eventSlot_cases s e with ⟨hshort, -⟩ | ⟨-, -, heq⟩ | ⟨hlast, -⟩
  · omega
  · exact heq
  · omega

theorem eventSlot_last {s : State} (e : Option Event) (hi : 31 ≤ s.i) :
    s.eventSlot e = { s with
      i := s.i + 1, events := s.events ++ e.toList, ctx := .stream, unread := [],
      result := .record { events := s.events ++ e.toList, out := outputStateOf s.unread } } := by
  rcases eventSlot_cases s e with ⟨hshort, -⟩ | ⟨-, hmore, -⟩ | ⟨-, heq⟩
  · omega
  · omega
  · exact heq

theorem outputStateOf_short {tail : List Byte} (h : tail.length < 4) : outputStateOf tail = none := by
  unfold outputStateOf
  split
  · simp only [List.length_cons] at h; omega
  · rfl

/-- The button of an index field, as a number modulo 32, which it is below (rule R88). -/
theorem buttonOf_eq_ofNat (idx : BitVec 5) : buttonOf idx = Fin.ofNat 32 idx.toNat :=
  Fin.ext (Nat.mod_eq_of_lt idx.isLt).symm

/-- An Event Byte row fills a slot with the event it emits, or with none. -/
theorem exec_eventRow {row : Instr} {emitted : List Event} {b7 b5 : Bool} {idx low : BitVec 5}
    (h : (row = .evtPress b5 idx ∧ emitted = [{ button := Fin.ofNat 32 idx.toNat, kind := .press }]) ∨
      (row = .evtRelease b5 idx ∧ emitted = [{ button := Fin.ofNat 32 idx.toNat, kind := .release }]) ∨
      (row = .evtPad b7 b5 low ∧ emitted = [])) :
    ∃ e : Option Event, e.toList = emitted ∧ ∀ s, exec row s = .next (s.eventSlot e) := by
  rw [← buttonOf_eq_ofNat] at h
  rcases h with ⟨rfl, rfl⟩ | ⟨rfl, rfl⟩ | ⟨rfl, rfl⟩ <;> exact ⟨_, rfl, fun _ => rfl⟩

/-- Settles O44: the three clauses are the three cases of a slot. -/
theorem eventRowsFillTheSlots : Obligations.EventRowsFillTheSlots := by
  intro s row emitted b7 b5 idx low hrow
  obtain ⟨e, rfl, hexec⟩ := exec_eventRow hrow
  rw [hexec]
  refine ⟨fun hshort => ?_, fun hi hlong => ?_, fun hi => ?_⟩
  · rw [eventSlot_short e hshort]
  · rw [eventSlot_more e hi hlong]
  · refine ⟨outputStateOf s.unread, by rw [eventSlot_last e hi], outputStateOf_short, ?_⟩
    intro o0 o1 o2 o3 more hu
    rw [hu]; rfl

/-! ### A telemetry content read row by row (rule R230, rule R232) -/

/-- A test against the mask of bit `k` is a test of bit `k`. -/
theorem and_twoPow_eq_zero_iff (b : Byte) {k : Nat} (hk : k < 8) :
    b &&& BitVec.twoPow 8 k = 0#8 ↔ b.getLsbD k = false := by
  rw [BitVec.and_twoPow]
  cases b.getLsbD k with
  | false => simp
  | true => interval_cases k <;> decide

/-- The index field is unchanged by its mask (rule R88). -/
theorem indexField_and_indexMask (b : Byte) : indexField (b &&& Config.indexMask) = indexField b := by
  rw [indexField, BitVec.extractLsb'_and]
  exact BitVec.and_allOnes

/-- DecodeEventByte, written with masks (rule R230), by the fields of the byte (rule R84). -/
theorem eventOfByte_eq (b : Byte) :
    eventOfByte b =
      if bit6 b then some { button := buttonOf (indexField b), kind := if bit7 b then .release else .press }
      else none := by
  have h6 : b &&& Config.cmdToggleBit = 0#8 ↔ bit6 b = false := and_twoPow_eq_zero_iff b (k := 6) (by decide)
  have h7 : b &&& Config.evtReleaseBit = 0#8 ↔ bit7 b = false := and_twoPow_eq_zero_iff b (k := 7) (by decide)
  simp only [eventOfByte, h6, h7, indexField_and_indexMask]
  cases bit6 b <;> cases bit7 b <;> rfl

/-- The row of an Event Byte fills a slot with what DecodeEventByte gives for the byte. -/
theorem exec_decodeEvent (b : Byte) (s : State) : exec (decodeEvent b) s = .next (s.eventSlot (eventOfByte b)) := by
  rw [eventOfByte_eq, decodeEvent]
  cases bit6 b <;> cases bit7 b <;> rfl

theorem step_telemetry {s : State} {b : Byte} {bs : List Byte} (hc : s.ctx = .telemetry) (hu : s.unread = b :: bs) :
    step s = .next ({ s with unread := bs }.eventSlot (eventOfByte b)) := by
  rw [step_decoded (i := decodeEvent b) (rest := bs) (by rw [hc, hu]; rfl), exec_decodeEvent]

/-- The state when `c` was the rest of a telemetry content, long enough for the slots left. -/
def State.recorded (s : State) (c : List Byte) : State :=
  { s with
    i := 32, events := s.events ++ eventsOf (c.take (32 - s.i)), ctx := .stream, unread := [],
    result := .record
      { events := s.events ++ eventsOf (c.take (32 - s.i)), out := outputStateOf (c.drop (32 - s.i)) } }

theorem eventsOf_cons (b : Byte) (bs : List Byte) : eventsOf (b :: bs) = (eventOfByte b).toList ++ eventsOf bs := by
  cases h : eventOfByte b <;> simp [eventsOf, h]

/-- One slot filled, the rest of the content is recorded in the slots left. -/
theorem recorded_cons (b : Byte) (bs u : List Byte) (r : Result) {s : State} (hi : s.i < 32) :
    { s with i := s.i + 1, events := s.events ++ (eventOfByte b).toList, unread := u, result := r }.recorded bs =
      s.recorded (b :: bs) := by
  have hleft : 32 - s.i = 32 - (s.i + 1) + 1 := by omega
  simp only [State.recorded, hleft, List.take_succ_cons, List.drop_succ_cons, eventsOf_cons, List.append_assoc]

/-- Reading the rest of a content row by row records it, when it is long enough for the slots left; what follows the
last slot is not read. -/
theorem run_telemetry {c : List Byte} {s : State} (hc : s.ctx = .telemetry) (hu : s.unread = c)
    (hs : s.script = []) (hi : s.i < 32) (hlen : 32 ≤ s.i + c.length) :
    Host.Core.run core c.length s = .next (s.recorded c) := by
  induction c generalizing s with
  | nil => simp only [List.length_nil] at hlen; omega
  | cons b bs ih =>
    have hstep := step_telemetry hc hu
    rw [List.length_cons] at hlen ⊢
    by_cases hlast : 31 ≤ s.i
    · have hi31 : s.i = 31 := by omega
      have hdone : { s with unread := bs }.eventSlot (eventOfByte b) = s.recorded (b :: bs) := by
        rw [eventSlot_last (s := { s with unread := bs }) _ hlast, ← recorded_cons b bs [] .none hi]
        simp [State.recorded, hi31, eventsOf]
      rw [hdone] at hstep
      exact (run_next _ _ _ hstep).trans (run_idle _ rfl hs)
    · rw [eventSlot_more (s := { s with unread := bs }) _ (by simp only; omega) (by simp only; omega)] at hstep
      rw [← recorded_cons b bs bs .none hi]
      exact (run_next _ _ _ hstep).trans (ih hc rfl hs (by simp only; omega) (by simp only; omega))

/-- A content too short for the slots is rejected at its first byte. -/
theorem run_telemetryTooShort {c : List Byte} (hne : c ≠ []) {s : State} (hc : s.ctx = .telemetry)
    (hu : s.unread = c) (hs : s.script = []) (hlen : s.i + c.length < 32) :
    Host.Core.run core c.length s =
      .next { s with ctx := .stream, unread := [], result := .error .telemetryTooShort } := by
  cases c with
  | nil => exact absurd rfl hne
  | cons b bs =>
    have hstep := step_telemetry hc hu
    rw [List.length_cons] at hlen ⊢
    rw [eventSlot_short (s := { s with unread := bs }) _ (by simp only; omega)] at hstep
    exact (run_next _ _ _ hstep).trans (run_idle _ rfl hs)

theorem execDecodeTelemetry_short {c : List Byte} (h : c.length < 32) (s : State) :
    exec (.decodeTelemetry c) s = .next { s with result := .error .telemetryTooShort } := by
  simp only [exec, execDecodeTelemetry, State.telemetryDone, telemetryResult, Config.eventSlots, if_pos h]; rfl

theorem execDecodeTelemetry_record {c : List Byte} (h : 32 ≤ c.length) (s : State) :
    exec (.decodeTelemetry c) s =
      .next { s with i := 32, events := (recordOf c).events, result := .record (recordOf c) } := by
  have hlong : ¬ c.length < 32 := Nat.not_lt.mpr h
  simp only [exec, execDecodeTelemetry, State.telemetryDone, telemetryResult, Config.eventSlots, if_neg hlong]
  rfl

/-- Settles O45: below 32 bytes the first row fails as DecodeTelemetry does; else 32 rows make its record. -/
theorem rowByRowTelemetryIsDecodeTelemetry : Obligations.RowByRowTelemetryIsDecodeTelemetry := by
  intro s c hne
  by_cases hlen : c.length < 32
  · rw [execDecodeTelemetry_short hlen]
    exact run_telemetryTooShort hne rfl rfl rfl (by simpa using hlen)
  · rw [execDecodeTelemetry_record (Nat.le_of_not_lt hlen)]
    exact run_telemetry rfl rfl rfl (by simp) (by simpa using hlen)

end Sys2Proof.Machine
end

section
/-! PROOFS. The Framing Codec (spec/40_framing_codec.md): what Encode writes, and what Decode accepts and
rejects. -/

namespace Sys2Proof.Machine

open Sys2Proof

/-! ### The code words of a raw sequence

Decode is lenient: a raw END is accepted as a literal (decision D11). So the raw sequences it accepts are more than the
escaped payloads, and a whole frame is one of them. -/

theorem LegalPair.target_ne_esc {t v : Byte} (h : LegalPair t v) : t ≠ Config.escByte := by cases h <;> decide

theorem LegalPair.target_ne_end {t v : Byte} (h : LegalPair t v) : t ≠ Config.endByte := by cases h <;> decide

/-- The raw bytes `f` are literals other than ESC and legal escape pairs, which stand for the bytes `p` in order. -/
inductive Unescapes : List Byte → List Byte → Prop where
  | nil : Unescapes [] []
  | literal {b : Byte} {f p : List Byte} (hb : b ≠ Config.escByte) (h : Unescapes f p) : Unescapes (b :: f) (b :: p)
  | pair {t v : Byte} {f p : List Byte} (ht : LegalPair t v) (h : Unescapes f p) :
      Unescapes (Config.escByte :: t :: f) (v :: p)

theorem Unescapes.append {f p g q : List Byte} (hf : Unescapes f p) (hg : Unescapes g q) :
    Unescapes (f ++ g) (p ++ q) := by
  induction hf with
  | nil => exact hg
  | literal hb _ ih => exact ih.literal hb
  | pair ht _ ih => exact ih.pair ht

/-- Rule R131: one raw byte more than the output for each escape pair, and only pairs hold an ESC. -/
theorem Unescapes.length_add_count {f p : List Byte} (h : Unescapes f p) :
    p.length + f.count Config.escByte = f.length := by
  induction h with
  | nil => rfl
  | literal hb _ ih => simp only [List.length_cons, List.count_cons_of_ne hb]; omega
  | pair ht _ ih => simp only [List.length_cons, List.count_cons_self, List.count_cons_of_ne ht.target_ne_esc]; omega

theorem Unescapes.length_le {f p : List Byte} (h : Unescapes f p) : f.length ≤ 2 * p.length := by
  induction h with
  | nil => exact Nat.le_refl 0
  | literal _ _ ih | pair _ _ ih => simp only [List.length_cons]; omega

theorem Unescapes.esc_followed {f p : List Byte} (h : Unescapes f p) {k : Nat}
    (hk : f[k]? = some Config.escByte) :
    f[k + 1]? = some Config.escEndByte ∨ f[k + 1]? = some Config.escEscByte := by
  induction h generalizing k with
  | nil => simp at hk
  | literal hb _ ih =>
    cases k with
    | zero => exact absurd (Option.some.inj hk) hb
    | succ k => exact ih hk
  | pair ht _ ih =>
    match k with
    | 0 => cases ht <;> simp
    | 1 => exact absurd (Option.some.inj hk) ht.target_ne_esc
    | k + 2 => exact ih hk

/-! ### What Decode accepts (rule R124, rule R130) -/

/-- The loop of Decode reads any code words to their end, whatever follows. -/
theorem scan_append_of_unescapes {f p : List Byte} (h : Unescapes f p) (g : List Byte) (i : Nat) (out : List Byte) :
    scan (f ++ g) i out = scan g (i + f.length) (out ++ p) := by
  induction h generalizing i out with
  | nil => simp
  | literal hb _ ih =>
    rw [List.cons_append, scan_literal _ _ _ _ hb, ih, List.append_assoc, Nat.add_assoc, Nat.add_comm 1]; rfl
  | pair ht _ ih =>
    rw [List.cons_append, List.cons_append, scan_pair ht, ih, List.append_assoc, Nat.add_assoc, Nat.add_comm 2]; rfl

theorem decodeRaw_append_of_unescapes {f p : List Byte} (h : Unescapes f p) (g : List Byte) :
    decodeRaw (f ++ g) = scan g f.length p := by
  simpa [decodeRaw] using scan_append_of_unescapes h g 0 []

theorem decodeRaw_of_unescapes {f p : List Byte} (h : Unescapes f p) :
    decodeRaw f = { i := f.length, out := p, error := none } := by
  simpa [scan_nil] using decodeRaw_append_of_unescapes h []

/-- Everything the loop of Decode can meet: code words to the end, or a bad escape. -/
theorem scan_cases (f : List Byte) (i : Nat) (out : List Byte) :
    (∃ p, Unescapes f p) ∨
      ∃ e, (scan f i out).error = some e ∧ (e = .truncatedEscape ∨ e = .malformedEscapeTarget) := by
  induction f using scan_induction generalizing i out with
  | nil => exact .inl ⟨[], .nil⟩
  | literal b rest hb ih =>
    rw [scan_literal _ _ _ _ hb]
    exact (ih _ _).imp_left fun ⟨p, h⟩ => ⟨b :: p, h.literal hb⟩
  | pairEnd rest ih =>
    rw [scan_pairEnd]
    exact (ih _ _).imp_left fun ⟨p, h⟩ => ⟨Config.endByte :: p, h.pair .pairEnd⟩
  | pairEsc rest ih =>
    rw [scan_pairEsc]
    exact (ih _ _).imp_left fun ⟨p, h⟩ => ⟨Config.escByte :: p, h.pair .pairEsc⟩
  | badTarget t rest hend hesc => rw [scan_badTarget _ _ _ _ hend hesc]; exact .inr ⟨_, rfl, .inr rfl⟩
  | truncated => rw [scan_truncated]; exact .inr ⟨_, rfl, .inl rfl⟩

/-- Decode writes its working registers and the result (rule R124). -/
theorem exec_decode (f : List Byte) (s : State) :
    exec (.decode f) s =
      .next { s with i := (decodeRaw f).i, out := (decodeRaw f).out, result := decodeResult (decodeRaw f) } := rfl

theorem exec_decode_of_unescapes {f p : List Byte} (h : Unescapes f p) (s : State) :
    exec (.decode f) s = .next { s with i := f.length, out := p, result := .ok p } := by
  rw [exec_decode, decodeRaw_of_unescapes h]; rfl

theorem exec_decode_of_error {f : List Byte} {e : FrameError} (h : (decodeRaw f).error = some e) (s : State) :
    exec (.decode f) s = .next { s with i := (decodeRaw f).i, out := (decodeRaw f).out, result := .error e } := by
  rw [exec_decode, decodeResult, h]

/-- Settles O15: the three ways the loop can end. -/
theorem decodeAlwaysAnswers : Obligations.DecodeAlwaysAnswers := by
  intro f s
  rcases scan_cases f 0 [] with ⟨p, h⟩ | ⟨e, h, rfl | rfl⟩
  · exact ⟨_, _, _, exec_decode_of_unescapes h s, .inl rfl⟩
  · exact ⟨_, _, _, exec_decode_of_error h s, .inr (.inl rfl)⟩
  · exact ⟨_, _, _, exec_decode_of_error h s, .inr (.inr rfl)⟩

/-- Decode accepts exactly the sequences of code words, and gives the bytes they stand for. -/
theorem exec_decode_ok_iff {f p : List Byte} {s t : State} (h : exec (.decode f) s = .next t) :
    t.result = .ok p ↔ Unescapes f p := by
  constructor
  · intro hok
    rcases scan_cases f 0 [] with ⟨q, hq⟩ | ⟨e, he, -⟩
    · cases (exec_decode_of_unescapes hq s).symm.trans h
      cases hok; exact hq
    · cases (exec_decode_of_error he s).symm.trans h
      cases hok
  · intro hp
    cases (exec_decode_of_unescapes hp s).symm.trans h
    rfl

/-- Settles O14: by the code words of the accepted input. -/
theorem decodedLength : Obligations.DecodedLength := by
  intro f p s t hexec hok
  have h : Unescapes f p := (exec_decode_ok_iff hexec).mp hok
  have hhalf : f.length ≤ 2 * p.length := h.length_le
  exact ⟨h.length_add_count, hhalf, fun h3 => by omega⟩

/-- Settles O16: the loop reads the accepted beginning to its end and meets the bad escape there. -/
theorem decodeRejectsABadEscape : Obligations.DecodeRejectsABadEscape := by
  intro g p s u hexec hok
  have hg : Unescapes g p := (exec_decode_ok_iff hexec).mp hok
  constructor
  · intro t h hend hesc
    have hraw := (decodeRaw_append_of_unescapes hg (0xDB#8 :: t :: h)).trans (scan_badTarget t h _ _ hend hesc)
    exact ⟨_, _, exec_decode_of_error (congrArg ScanEnd.error hraw) s⟩
  · have hraw := (decodeRaw_append_of_unescapes hg [0xDB#8]).trans (scan_truncated _ _)
    exact ⟨_, _, exec_decode_of_error (congrArg ScanEnd.error hraw) s⟩

/-! ### What Encode writes (rule R120 to rule R122) -/

theorem escape1_literal {b : Byte} (hesc : b ≠ Config.escByte) (hend : b ≠ Config.endByte) : escape1 b = [b] := by
  rw [escape1, if_neg hesc, if_neg hend]

theorem escape1_pair {t v : Byte} (h : LegalPair t v) : escape1 v = [Config.escByte, t] := by cases h <;> rfl

/-- A byte is escaped to the pair that stands for it, or passes through. -/
theorem escape1_cases (b : Byte) :
    (∃ t, LegalPair t b ∧ escape1 b = [Config.escByte, t]) ∨
      (b ≠ Config.escByte ∧ b ≠ Config.endByte ∧ escape1 b = [b]) := by
  by_cases hesc : b = Config.escByte
  · subst hesc; exact .inl ⟨_, .pairEsc, rfl⟩
  · by_cases hend : b = Config.endByte
    · subst hend; exact .inl ⟨_, .pairEnd, rfl⟩
    · exact .inr ⟨hesc, hend, escape1_literal hesc hend⟩

theorem escape_cons (b : Byte) (p : List Byte) : escape (b :: p) = escape1 b ++ escape p := List.flatMap_cons

theorem unescapes_escape1 (b : Byte) : Unescapes (escape1 b) [b] := by
  rcases escape1_cases b with ⟨t, ht, he⟩ | ⟨hesc, -, he⟩
  · exact he ▸ Unescapes.nil.pair ht
  · exact he ▸ Unescapes.nil.literal hesc

theorem unescapes_escape (p : List Byte) : Unescapes (escape p) p := by
  induction p with
  | nil => exact .nil
  | cons b p ih => exact escape_cons b p ▸ (unescapes_escape1 b).append ih

/-- A frame read with its two END bytes, which Decode takes as literals. -/
theorem unescapes_encodeFrame (p : List Byte) :
    Unescapes (encodeFrame p) ([Config.endByte] ++ p ++ [Config.endByte]) :=
  have hend : Unescapes [Config.endByte] [Config.endByte] := Unescapes.nil.literal (by decide)
  (hend.append (unescapes_escape p)).append hend

/-- Without a raw END, every literal and every pair is the escape of the byte it stands for. -/
theorem Unescapes.eq_escape {f p : List Byte} (h : Unescapes f p) (hf : Config.endByte ∉ f) : f = escape p := by
  induction h with
  | nil => rfl
  | literal hb _ ih =>
    have hend : _ ≠ Config.endByte := (List.ne_of_not_mem_cons hf).symm
    rw [escape_cons, escape1_literal hb hend, ← ih (List.not_mem_of_not_mem_cons hf)]; rfl
  | pair ht _ ih =>
    rw [escape_cons, escape1_pair ht, ← ih (List.not_mem_of_not_mem_cons (List.not_mem_of_not_mem_cons hf))]; rfl

theorem end_not_mem_escape (p : List Byte) : Config.endByte ∉ escape p := by
  rw [escape, List.mem_flatMap]
  rintro ⟨b, -, hb⟩
  rcases escape1_cases b with ⟨t, ht, he⟩ | ⟨-, hend, he⟩
  · rw [he, List.mem_pair] at hb
    exact hb.elim (by decide) ht.target_ne_end.symm
  · exact hend (List.mem_singleton.mp (he ▸ hb)).symm

theorem length_escape (p : List Byte) :
    (escape p).length = p.length + p.countP (fun b => b == Config.endByte || b == Config.escByte) := by
  induction p with
  | nil => rfl
  | cons b p ih =>
    rw [escape_cons, List.length_append, ih, List.length_cons, List.countP_cons]
    rcases escape1_cases b with ⟨t, ht, he⟩ | ⟨hesc, hend, he⟩
    · rw [he]; cases ht <;> simp <;> omega
    · simp [he, hesc, hend]; omega

theorem exec_encode (p : List Byte) (s : State) :
    exec (.encode p) s = .next { s with result := .bytes (encodeFrame p) } := rfl

theorem encodeFrame_inner (p : List Byte) : ((encodeFrame p).drop 1).dropLast = escape p :=
  List.dropLast_concat

theorem length_encodeFrame (p : List Byte) : (encodeFrame p).length = (escape p).length + 2 := by
  simp [encodeFrame]

theorem getElem?_encodeFrame_succ {p : List Byte} {k : Nat} (hk : k < (escape p).length) :
    (encodeFrame p)[k + 1]? = (escape p)[k]? :=
  List.getElem?_append_left (Nat.succ_lt_succ hk)

/-- Settles O10: the frame is defined byte by byte. -/
theorem encodeEscapesBetweenTwoEnds : Obligations.EncodeEscapesBetweenTwoEnds := exec_encode

/-- Settles O11: the frame is itself a sequence of code words, so each ESC in it begins a legal pair. -/
theorem encodedFrameShapeAndLength : Obligations.EncodedFrameShapeAndLength := by
  intro p s
  have hlen := length_encodeFrame p
  refine ⟨encodeFrame p, exec_encode p s, rfl, ?_, ?_, fun k => (unescapes_encodeFrame p).esc_followed, ?_⟩
  · rw [← List.getLast?_eq_getElem?]
    exact List.getLast?_concat
  · intro k hpos hk hend
    obtain ⟨j, rfl⟩ := Nat.exists_eq_add_of_le' hpos
    rw [getElem?_encodeFrame_succ (by omega)] at hend
    exact end_not_mem_escape p (List.mem_of_getElem? hend)
  · rw [hlen, length_escape]; exact Nat.add_right_comm _ _ _

/-- Settles O12: the escaped payload is a sequence of code words. -/
theorem decodeUndoesEncode : Obligations.DecodeUndoesEncode := by
  intro d f s t hexec hf
  cases (exec_encode d s).symm.trans hexec
  cases hf
  rw [encodeFrame_inner, length_encodeFrame]
  exact exec_decode_of_unescapes (unescapes_escape d) s

/-- Settles O13: code words without a raw END are an escaped payload, and the other way round. -/
theorem decodeAcceptsExactlyEscapedPayloads : Obligations.DecodeAcceptsExactlyEscapedPayloads := by
  intro f p s t hend hexec
  rw [exec_decode_ok_iff hexec]
  exact ⟨fun h => h.eq_escape hend, fun h => h ▸ unescapes_escape p⟩

end Sys2Proof.Machine
end

section
/-! PROOFS. The Checksum Module (spec/41_checksum.md): Compute as a shift register, and what Verify accepts. -/

namespace Sys2Proof.Machine

open Sys2Proof

theorem exec_compute (d : List Byte) (s : State) :
    exec (.compute d) s = .next { s with crc := compute d, result := .word (compute d) } := rfl

theorem exec_appendChecksum (d : List Byte) (s : State) :
    exec (.appendChecksum d) s = .next { s with crc := compute d, result := .bytes (appendChecksum d) } := rfl

theorem exec_verify (p : List Byte) (s : State) :
    exec (.verify p) s = .next { s with crc := verifyCrc s.crc p, result := .bool (verify p) } := rfl

/-- Settles O21: a fold over the bits of the bytes is a fold of folds. -/
theorem computeIsTheBitSerialRegister : Obligations.ComputeIsTheBitSerialRegister := by
  intro d s
  refine ⟨_, exec_compute d s, ?_⟩
  rw [List.foldl_flatMap]
  rfl

/-! ### Feeding bits is shifting a register they were XORed into (rule R151, rule R152) -/

/-- The register after the `n` topmost bits of a word `w` have entered it one by one. -/
def crcTopBits (c w : U16) : Nat → U16
  | 0 => c
  | n + 1 => crcBit (crcTopBits c w n) (w.getLsbD (15 - n))

/-- One shift of a register with a word XORed in feeds the word's top bit and keeps its other bits XORed in, one place
higher. -/
theorem crcShift_xor (c w : U16) : crcShift (c ^^^ w) = crcBit c (w.getLsbD 15) ^^^ (w <<< 1) := by
  rw [crcShift, crcBit, BitVec.getLsbD_xor, BitVec.shiftLeft_xor_distrib]
  by_cases hfeedback : (c.getLsbD 15 ^^ w.getLsbD 15) = true
  · rw [if_pos hfeedback, if_pos hfeedback]; ac_rfl
  · rw [if_neg hfeedback, if_neg hfeedback]

theorem iterate_crcShift_xor (c w : U16) {n : Nat} (hn : n ≤ 16) :
    crcShift^[n] (c ^^^ w) = crcTopBits c w n ^^^ (w <<< n) := by
  induction n with
  | zero => rw [BitVec.shiftLeft_zero]; rfl
  | succ n ih =>
    have htop : (w <<< n).getLsbD 15 = w.getLsbD (15 - n) := by
      rw [BitVec.getLsbD_shiftLeft]
      simp [Nat.not_lt_of_le (Nat.le_of_succ_le_succ hn)]
    rw [Function.iterate_succ_apply', ih (Nat.le_of_succ_le hn), crcShift_xor, htop, BitVec.shiftLeft_add, crcTopBits]

/-- When no bit of the word is left, the shifts have fed it whole. -/
theorem iterate_crcShift_xor_all (c : U16) {w : U16} {n : Nat} (hn : n ≤ 16) (hw : w <<< n = 0#16) :
    crcShift^[n] (c ^^^ w) = crcTopBits c w n := by
  rw [iterate_crcShift_xor c w hn, hw, BitVec.xor_zero]

theorem crcTopBits_byte (c : U16) (b : Byte) : crcTopBits c (b.setWidth 16 <<< 8) 8 = crcByte c b := by
  simp [crcTopBits, crcByte]

theorem crcTopBits_pair (c : U16) (hi lo : Byte) :
    crcTopBits c (joinChecksum hi lo) 16 = crcByte (crcByte c hi) lo := by
  simp [crcTopBits, crcByte, joinChecksum]

theorem crcByteWise_eq_crcByte (c : U16) (b : Byte) : crcByteWise c b = crcByte c b := by
  have hw : (b.setWidth 16 <<< 8 : U16) <<< 8 = 0#16 := by
    rw [← BitVec.shiftLeft_add]
    exact BitVec.shiftLeft_eq_zero (Nat.le_refl 16)
  exact (iterate_crcShift_xor_all c (by decide) hw).trans (crcTopBits_byte c b)

theorem computeByteWise_eq_compute (d : List Byte) : computeByteWise d = compute d :=
  congrArg (d.foldl · Config.crcInit) (funext₂ crcByteWise_eq_crcByte)

/-- Settles O22: byte by byte, 8 shifts feed the 8 bits XORed into the high half. -/
theorem computeByteWiseIsCompute : Obligations.ComputeByteWiseIsCompute := by
  intro d s
  rw [exec_compute, ← computeByteWise_eq_compute]
  rfl

/-! ### The two bytes a payload carries (rule R154 to rule R156) -/

theorem joinChecksum_checksumBytes (c : U16) : joinChecksum (checksumHi c) (checksumLo c) = c := by
  refine BitVec.eq_of_getLsbD_eq fun k hk => ?_
  rw [joinChecksum, checksumHi, checksumLo]
  by_cases hlow : k < 8
  · simp [hk, hlow]
  · have hsub : k - 8 < 8 := by omega
    have hadd : 8 + (k - 8) = k := by omega
    simp [hk, hlow, hsub, hadd]

theorem payloadChecksumBytes_short {p : List Byte} (h : p.length < 2) : payloadChecksumBytes p = none := by
  unfold payloadChecksumBytes
  split
  · next hlast =>
    have hlen := congrArg List.length hlast
    rw [List.length_drop, List.length_cons, List.length_singleton] at hlen
    omega
  · rfl

theorem payloadChecksumBytes_append (d : List Byte) (hi lo : Byte) :
    payloadChecksumBytes (d ++ [hi, lo]) = some (hi, lo) := by
  simp [payloadChecksumBytes]

theorem payloadContent_append (d : List Byte) (hi lo : Byte) : payloadContent (d ++ [hi, lo]) = d := by
  simp [payloadContent]

theorem verify_append (d : List Byte) (hi lo : Byte) :
    verify (d ++ [hi, lo]) = decide (compute d = joinChecksum hi lo) := by
  rw [verify, payloadChecksumBytes_append, payloadContent_append]
  rfl

theorem verifyCrc_append (c : U16) (d : List Byte) (hi lo : Byte) : verifyCrc c (d ++ [hi, lo]) = compute d := by
  rw [verifyCrc, payloadChecksumBytes_append, payloadContent_append]

theorem verify_short {p : List Byte} (h : p.length < 2) : verify p = false := by
  rw [verify, payloadChecksumBytes_short h]

theorem verifyCrc_short (c : U16) {p : List Byte} (h : p.length < 2) : verifyCrc c p = c := by
  rw [verifyCrc, payloadChecksumBytes_short h]

theorem verify_appendChecksum (d : List Byte) : verify (appendChecksum d) = true := by
  rw [appendChecksum, withChecksum, verify_append, joinChecksum_checksumBytes]
  exact decide_eq_true rfl

/-- Settles O23: rule R87's masks take the two bytes out of what Compute gives. -/
theorem appendChecksumPutsTheHighByteFirst : Obligations.AppendChecksumPutsTheHighByteFirst := by
  intro d s
  refine ⟨_, exec_compute d s, ?_⟩
  rw [exec_appendChecksum, appendChecksum, withChecksum_eq_masked]

/-- Settles O24: a payload is below 2 bytes, or carries two bytes after its content. -/
theorem verifyComparesComputedWithCarried : Obligations.VerifyComparesComputedWithCarried := by
  refine ⟨fun p s hshort => ?_, fun d hi lo s => ⟨_, exec_compute d s, ?_⟩⟩
  · rw [exec_verify, verify_short hshort, verifyCrc_short s.crc hshort]
  · rw [exec_verify, verify_append, verifyCrc_append]; rfl

/-- Settles O25: the carried bytes, joined, are the computed checksum again. -/
theorem verifyAcceptsAppendChecksum : Obligations.VerifyAcceptsAppendChecksum := by
  intro d p s t u happend hp hverify
  cases (exec_appendChecksum d s).symm.trans happend
  cases hp
  cases (exec_verify _ s).symm.trans hverify
  exact congrArg Result.bool (verify_appendChecksum d)

/-! ### The residue (rule R160)

No shift takes a non-zero register to zero: feedback sets bit 0, and without feedback the bit that drops out is clear. -/

theorem crcShift_eq_zero_iff {c : U16} : crcShift c = 0#16 ↔ c = 0#16 := by
  refine ⟨fun h => ?_, by rintro rfl; decide⟩
  unfold crcShift at h
  split at h
  · have hbit0 := congrArg (BitVec.getLsbD · 0) h
    simp [Config.crcPoly] at hbit0
  · next htop =>
    have hmsb : c.msb = false := by simpa [BitVec.msb_eq_getLsbD_last] using htop
    rw [BitVec.msb_eq_false_iff_two_mul_lt] at hmsb
    bv_omega

theorem iterate_crcShift_eq_zero_iff (n : Nat) {c : U16} : crcShift^[n] c = 0#16 ↔ c = 0#16 := by
  induction n with
  | zero => rfl
  | succ n ih => rw [Function.iterate_succ_apply', crcShift_eq_zero_iff, ih]

/-- Two bytes after a content shift the register to zero exactly when they, joined, are what it held. -/
theorem compute_append_pair_eq_zero_iff (d : List Byte) (hi lo : Byte) :
    compute (d ++ [hi, lo]) = 0#16 ↔ compute d = joinChecksum hi lo :=
  calc compute (d ++ [hi, lo]) = 0#16
      ↔ crcShift^[16] (compute d ^^^ joinChecksum hi lo) = 0#16 := by
        rw [iterate_crcShift_xor_all _ (Nat.le_refl 16) (BitVec.shiftLeft_eq_zero (Nat.le_refl 16)), crcTopBits_pair,
          compute, List.foldl_append]
        rfl
    _ ↔ compute d ^^^ joinChecksum hi lo = 0#16 := iterate_crcShift_eq_zero_iff 16
    _ ↔ compute d = joinChecksum hi lo := BitVec.xor_eq_zero_iff

theorem exists_append_pair {p : List Byte} (h : 2 ≤ p.length) : ∃ d hi lo, p = d ++ [hi, lo] := by
  have hlen : (p.drop (p.length - 2)).length = 2 := by rw [List.length_drop]; omega
  obtain ⟨hi, lo, hlast⟩ := List.length_eq_two.mp hlen
  exact ⟨p.take (p.length - 2), hi, lo, by rw [← hlast, List.take_append_drop]⟩

theorem verify_iff_compute_eq_zero {p : List Byte} (h : 2 ≤ p.length) : verify p = true ↔ compute p = 0#16 := by
  obtain ⟨d, hi, lo, rfl⟩ := exists_append_pair h
  rw [verify_append, decide_eq_true_iff, compute_append_pair_eq_zero_iff]

/-- Settles O27: the payload is a content and two bytes, and those two shift its checksum to zero. -/
theorem verifyIsAZeroResidue : Obligations.VerifyIsAZeroResidue := by
  intro p s t u hlen hverify hcompute
  cases (exec_verify p s).symm.trans hverify
  cases (exec_compute p s).symm.trans hcompute
  rw [Result.bool.injEq, Result.word.injEq]
  exact verify_iff_compute_eq_zero hlen

/-! ### Zero bytes (rule R159) -/

theorem compute_zero_cons (d : List Byte) : compute (0x00#8 :: d) = compute d := by
  have hzero : crcByte Config.crcInit 0x00#8 = Config.crcInit := by decide
  rw [compute, List.foldl_cons, hzero, compute]

theorem compute_zeros_append (n : Nat) (d : List Byte) : compute (List.replicate n 0x00#8 ++ d) = compute d := by
  induction n with
  | zero => rfl
  | succ n ih => rw [List.replicate_succ, List.cons_append, compute_zero_cons, ih]

theorem compute_zeros (n : Nat) : compute (List.replicate n 0x00#8) = 0#16 := by
  rw [← List.append_nil (List.replicate n _), compute_zeros_append]
  rfl

/-- Settles O26: a zero byte leaves the initial register zero, and a zero checksum verifies by the residue. -/
theorem leadingZerosDoNotChangeTheChecksum : Obligations.LeadingZerosDoNotChangeTheChecksum := by
  refine ⟨fun n d s => ⟨_, exec_compute d s, ?_⟩, fun n s t hn hverify => ?_⟩
  · rw [exec_compute, compute_zeros_append]
  · cases (exec_verify _ s).symm.trans hverify
    have hlen : 2 ≤ (List.replicate n 0x00#8).length := by rwa [List.length_replicate]
    exact congrArg Result.bool ((verify_iff_compute_eq_zero hlen).mpr (compute_zeros n))

end Sys2Proof.Machine
end

section
/-! PROOFS. The Command Encoder (spec/42_command_encoder.md): the toggle byte, the frame of a command sequence, and what
the inbound path reads back from it. -/

namespace Sys2Proof.Machine

open Sys2Proof

/-! ### The toggle byte (rule R180) -/

/-- An index fits below bit 5, so the bits from 5 up are those of `CMD_TOGGLE_BIT`. -/
theorem getLsbD_toggleByte_of_ge {idx k : Nat} (hidx : idx ≤ 31) (hk : 5 ≤ k) :
    (toggleByte idx).getLsbD k = Config.cmdToggleBit.getLsbD k := by
  have hpow : 2 ^ 5 ≤ 2 ^ k := Nat.pow_le_pow_right Nat.two_pos hk
  have hlow : idx.testBit k = false := Nat.testBit_lt_two_pow (by omega)
  rw [toggleByte, BitVec.ofNat_or, BitVec.getLsbD_or, BitVec.getLsbD_ofNat (x := idx), hlow, Bool.and_false,
    Bool.or_false]

theorem toNat_toggleByte {idx : Nat} (hidx : idx ≤ 31) : (toggleByte idx).toNat = 0x40 + idx := by
  have hor : 0x40 + idx = 0x40 ||| idx := Nat.two_pow_add_eq_or_of_lt (i := 6) (by omega) 1
  rw [toggleByte, BitVec.toNat_ofNat, ← hor]
  omega

/-- Settles O28: an index of at most 31 does not reach the marker's bits 5 to 7, and bit 7 tells the byte from END and
ESC. -/
theorem mkToggleBuildsTheToggleByte : Obligations.MkToggleBuildsTheToggleByte := by
  refine ⟨fun idx s hidx => ?_, fun idx s hidx => if_pos hidx⟩
  have h7 : (toggleByte idx).getLsbD 7 = false := getLsbD_toggleByte_of_ge hidx (by decide)
  have hne {b : Byte} (hb : b.getLsbD 7 = true) : toggleByte idx ≠ b := by
    rintro rfl
    exact Bool.false_ne_true (h7.symm.trans hb)
  exact ⟨toggleByte idx, (execMkToggle_next idx s _).mpr ⟨hidx, rfl⟩, toNat_toggleByte hidx, h7,
    getLsbD_toggleByte_of_ge hidx (by decide), getLsbD_toggleByte_of_ge hidx (by decide), hne rfl, hne rfl⟩

/-! ### The frame of a command sequence (rule R181) -/

/-- Settles O29: EncodeCommand is AppendChecksum and then Encode, unless the content exceeds MAX_TX_CONTENT. -/
theorem encodeCommandEmitsOneFrame : Obligations.EncodeCommandEmitsOneFrame := by
  refine ⟨fun cs s hfits => ?_, fun cs s m hm hlt => ?_⟩
  · have hx := (exceedsTxContent_eq_false_iff _ _).mpr hfits
    exact ⟨_, _, _, _, _, exec_appendChecksum cs s, rfl, rfl, exec_encode _ s, rfl,
      (execEncodeCommand_next cs s _).mpr ⟨hx, rfl⟩⟩
  · exact if_pos ((exceedsTxContent_iff _ _).mpr ⟨m, hm, hlt⟩)

/-! ### The inbound path undoes the frame (rule R182) -/

theorem exec_checkPayload (p : List Byte) (s : State) :
    exec (.checkPayload p) s = .next { s with crc := verifyCrc s.crc p, result := checkResult p } := rfl

/-- A content and the checksum appended to it pass the check, and the content is given back. -/
theorem checkResult_appendChecksum (d : List Byte) : checkResult (appendChecksum d) = .content d := by
  have hlen : ¬ (appendChecksum d).length < 2 := by simp [appendChecksum, withChecksum]
  rw [checkResult, if_neg hlen, if_pos (verify_appendChecksum d)]
  exact congrArg Result.content (payloadContent_append d _ _)

/-- Settles O30: Decode undoes the escaping and CheckPayload the checksum, whatever the bytes are. -/
theorem commandsAreMarshalledUnchanged : Obligations.CommandsAreMarshalledUnchanged := by
  intro cs f p s t u v hencode hf hdecode hp hcheck
  obtain ⟨-, rfl⟩ := (execEncodeCommand_next cs s t).mp hencode
  cases hf
  rw [commandFrame, encodeFrame_inner] at hdecode
  cases (exec_decode_of_unescapes (unescapes_escape _) s).symm.trans hdecode
  cases hp
  cases (exec_checkPayload _ s).symm.trans hcheck
  exact checkResult_appendChecksum cs

end Sys2Proof.Machine
end

section
/-! PROOFS. The Frame Receiver (spec/43_frame_receiver.md): the whole next state of each Feed, what a Feed can answer,
and what comes of a frame fed to a clean receiver. -/

namespace Sys2Proof.Machine

open Sys2Proof

/-! ### One Feed and the rows END and DATA (rule R90, rule R200) -/

theorem exec_feed (b : Byte) (s : State) : exec (.feed b) s = .next (s.fed b) := rfl

theorem fed_end (s : State) : s.fed Config.endByte = (feedEnd s).1.deliver (feedEnd s).2 := by
  rw [State.fed, feedByte_end]

theorem fed_data {b : Byte} (hb : b ≠ Config.endByte) (s : State) :
    s.fed b = (feedData b s).1.deliver (feedData b s).2 := by
  rw [State.fed, feedByte_data b s hb]

theorem exec_endMark (s : State) : exec .endMark s = .next (s.fed Config.endByte) :=
  congrArg Host.Outcome.next (fed_end s).symm

theorem exec_data {b : Byte} (hb : b ≠ Config.endByte) (s : State) : exec (.data b) s = .next (s.fed b) :=
  congrArg Host.Outcome.next (fed_data hb s).symm

theorem deliver_none (s : State) : s.deliver .none = { s with result := .none, rxIndex := s.rxIndex + 1 } := rfl

theorem deliver_some {r : Result} (hr : r ≠ .none) (s : State) :
    s.deliver r = { s with result := r, rxLog := s.rxLog ++ [(s.rxIndex, r)], rxIndex := s.rxIndex + 1 } := by
  rw [State.deliver, rxLogged_some _ _ _ hr]

theorem fed_params (b : Byte) (s : State) : (s.fed b).params = s.params := (feedByte_frame b s).1

/-- END leaves a clean receiver in every case (rule R201). -/
theorem fed_end_clean (s : State) : Clean (s.fed Config.endByte) := by
  rw [fed_end]
  exact ⟨(feedEnd_clean s).bufferEmpty, (feedEnd_clean s).notDropping⟩

/-! ### The whole next state of a Feed, case by case (rule R201 to rule R205) -/

theorem fed_end_silent {s : State} (h : s.rxdrop = true ∨ s.rxbuf.length < 3) :
    s.fed Config.endByte =
      { s with rxbuf := [], rxdrop := false, result := .none, rxIndex := s.rxIndex + 1 } := by
  rcases feedEnd_cases s with ⟨-, hend⟩ | ⟨hdrop, hlen, -⟩
  · rw [fed_end, hend]; rfl
  · simp [hdrop, Nat.not_lt_of_le hlen] at h

/-- A taken buffer of 3 or more raw bytes has a result (rule R203). -/
theorem payloadResult_ne_none (r : ScanEnd) : payloadResult r ≠ .none := by
  unfold payloadResult
  split <;> simp

theorem fed_end_decoded {s : State} (hdrop : s.rxdrop = false) (hlen : 3 ≤ s.rxbuf.length) :
    s.fed Config.endByte = { s with
      rxbuf := [], i := (decodeRaw s.rxbuf).i, out := (decodeRaw s.rxbuf).out,
      result := payloadResult (decodeRaw s.rxbuf),
      rxLog := s.rxLog ++ [(s.rxIndex, payloadResult (decodeRaw s.rxbuf))], rxIndex := s.rxIndex + 1 } := by
  rcases feedEnd_cases s with ⟨hdrop' | hlen', -⟩ | ⟨-, -, hend⟩
  · simp [hdrop] at hdrop'
  · omega
  · simp [fed_end, hend, deliver_some (payloadResult_ne_none _), hdrop]

theorem fed_dropped {s : State} {b : Byte} (hb : b ≠ Config.endByte) (hdrop : s.rxdrop = true) :
    s.fed b = { s with result := .none, rxIndex := s.rxIndex + 1 } := by
  rcases feedData_cases b s with ⟨-, h⟩ | ⟨hdrop', -⟩ | ⟨hdrop', -⟩
  · rw [fed_data hb, h]; rfl
  all_goals simp [hdrop] at hdrop'

theorem fed_overflow {s : State} {b : Byte} (hb : b ≠ Config.endByte) (hdrop : s.rxdrop = false)
    (hfull : s.params.maxFrame = some s.rxbuf.length) :
    s.fed b = { s with
      rxbuf := [], rxdrop := true, result := .error .frameTooLong,
      rxLog := s.rxLog ++ [(s.rxIndex, .error .frameTooLong)], rxIndex := s.rxIndex + 1 } := by
  rcases feedData_cases b s with ⟨hdrop', -⟩ | ⟨-, -, h⟩ | ⟨-, hroom, -⟩
  · simp [hdrop] at hdrop'
  · rw [fed_data hb, h]; rfl
  · exact absurd hfull hroom

theorem fed_appended {s : State} {b : Byte} (hb : b ≠ Config.endByte) (hdrop : s.rxdrop = false)
    (hroom : s.params.maxFrame ≠ some s.rxbuf.length) :
    s.fed b = { s with rxbuf := s.rxbuf ++ [b], result := .none, rxIndex := s.rxIndex + 1 } := by
  rcases feedData_cases b s with ⟨hdrop', -⟩ | ⟨-, hfull, -⟩ | ⟨-, -, h⟩
  · simp [hdrop] at hdrop'
  · exact absurd hfull hroom
  · rw [fed_data hb, h]; rfl

/-- Settles O33: END is silent or decodes, and clears the receiver either way. -/
theorem endClearsTheBufferInEveryCase : Obligations.EndClearsTheBufferInEveryCase := by
  intro s
  rw [exec_feed, exec_endMark, fed_end]
  rcases feedEnd_cases s with ⟨-, hend⟩ | ⟨-, -, hend⟩
  all_goals rw [hend]; exact ⟨_, _, _, _, rfl, rfl⟩

/-- Settles O34: the test counts raw bytes, and 3 of them are decoded. -/
theorem shortStretchIsSilent : Obligations.ShortStretchIsSilent := by
  refine fun s => ⟨fun hlen => ?_, fun hdrop hlen => ?_⟩
  · rw [exec_feed, fed_end_silent (.inr hlen)]
  · exact ⟨_, congrArg Host.Outcome.next (fed_end_decoded hdrop hlen.ge), rfl, payloadResult_ne_none _⟩

/-- Settles O36: a buffer below every bound is not full. -/
theorem dataIsAppendedUnchanged : Obligations.DataIsAppendedUnchanged := by
  intro s b hb hdrop hbelow
  have hroom : s.params.maxFrame ≠ some s.rxbuf.length := fun hfull => Nat.lt_irrefl _ (hbelow _ hfull)
  rw [exec_feed, exec_data hb, fed_appended hb hdrop hroom]
  exact ⟨rfl, rfl⟩

/-- Settles O37: the overflowing byte, a dropped byte, and the END that ends the drop. -/
theorem overflowDropsUntilTheNextEnd : Obligations.OverflowDropsUntilTheNextEnd := by
  intro s m b hmax hb
  refine ⟨exec_data hb s, fun hdrop hlen => ?_, fun hdrop => ⟨?_, ?_⟩⟩
  · rw [exec_feed, fed_overflow hb hdrop (hlen ▸ hmax)]
  · rw [exec_feed, fed_dropped hb hdrop]
  · rw [exec_feed, fed_end_silent (.inl hdrop)]

/-! ### What a Feed answers (rule R203, rule R207, rule R212) -/

/-- Feed passes on what Decode answers: a payload where Decode accepts, and otherwise Decode's error. -/
theorem payloadResult_cases (r : ScanEnd) :
    (∃ p, decodeResult r = .ok p ∧ payloadResult r = .payload p) ∨
      ∃ e, r.error = some e ∧ decodeResult r = .error e ∧ payloadResult r = .error e := by
  unfold decodeResult payloadResult
  cases r.error with
  | none => exact .inl ⟨_, rfl, rfl⟩
  | some e => exact .inr ⟨e, rfl, rfl, rfl⟩

/-- Settles O35: the result of Decode, delivered as Feed's. -/
theorem longStretchIsDecoded : Obligations.LongStretchIsDecoded := by
  intro s u hdrop hlen hdecode
  cases (exec_decode s.rxbuf s).symm.trans hdecode
  refine ⟨payloadResult (decodeRaw s.rxbuf), ?_, congrArg Host.Outcome.next (fed_end_decoded hdrop hlen)⟩
  exact (payloadResult_cases _).imp_right fun ⟨e, _, h⟩ => ⟨e, h⟩

/-- Everything a Feed can do to the log, and when it has a result. -/
theorem fed_result_cases (b : Byte) (s : State) :
    ((s.fed b).result = .none ∧ (s.fed b).rxLog = s.rxLog) ∨
      ((s.fed b).result ≠ .none ∧ (s.fed b).rxLog = s.rxLog ++ [(s.rxIndex, (s.fed b).result)] ∧
        (b = Config.endByte ∨
          (s.fed b).result = .error .frameTooLong ∧ s.params.maxFrame = some s.rxbuf.length)) := by
  by_cases hb : b = Config.endByte
  · subst hb
    rcases feedEnd_cases s with ⟨hsilent, -⟩ | ⟨hdrop, hlen, -⟩
    · rw [fed_end_silent hsilent]; exact .inl ⟨rfl, rfl⟩
    · rw [fed_end_decoded hdrop hlen]; exact .inr ⟨payloadResult_ne_none _, rfl, .inl rfl⟩
  · rcases feedData_cases b s with ⟨hdrop, -⟩ | ⟨hdrop, hfull, -⟩ | ⟨hdrop, hroom, -⟩
    · rw [fed_dropped hb hdrop]; exact .inl ⟨rfl, rfl⟩
    · rw [fed_overflow hb hdrop hfull]; exact .inr ⟨Result.noConfusion, rfl, .inr ⟨rfl, hfull⟩⟩
    · rw [fed_appended hb hdrop hroom]; exact .inl ⟨rfl, rfl⟩

/-- A Feed is one transaction on `rx_in` (rule R306). -/
theorem fed_rxIndex (b : Byte) (s : State) : (s.fed b).rxIndex = s.rxIndex + 1 := by
  rw [State.fed, deliver_rxIndex, (feedByte_receivePart b).rxIndex]

/-- Settles O38: of the five cases of a Feed two have a result. -/
theorem resultsComeOnlyAtEndOrOverflow : Obligations.ResultsComeOnlyAtEndOrOverflow :=
  fun b s => ⟨_, exec_feed b s, fed_rxIndex b s, fed_result_cases b s⟩

theorem decodeRaw_error {f : List Byte} {e : FrameError} (h : (decodeRaw f).error = some e) :
    e = .truncatedEscape ∨ e = .malformedEscapeTarget := by
  rcases scan_cases f 0 [] with ⟨p, hp⟩ | ⟨e', he', hkind⟩
  · rw [decodeRaw_of_unescapes hp] at h; cases h
  · cases h.symm.trans he'; exact hkind

/-- Three raw bytes or more that Decode accepts give 2 bytes or more, as unescaping at most halves the length (rule
R131, rule R212). -/
theorem two_le_length_of_decoded {f p : List Byte} (hlen : 3 ≤ f.length)
    (h : decodeResult (decodeRaw f) = .ok p) : 2 ≤ p.length := by
  have hp : Unescapes f p := (exec_decode_ok_iff (exec_decode f State.reset)).mp h
  have hhalf : f.length ≤ 2 * p.length := hp.length_le
  omega

/-- Everything a Feed can answer: nothing, a payload long enough for a checksum field, or an error of Decode or of the
overflow. -/
theorem feedByte_result_cases (b : Byte) (s : State) :
    (feedByte b s).2 = .none ∨ (∃ p, (feedByte b s).2 = .payload p ∧ 2 ≤ p.length) ∨
      ∃ e, (feedByte b s).2 = .error e ∧
        (e = .truncatedEscape ∨ e = .malformedEscapeTarget ∨ e = .frameTooLong) := by
  by_cases hb : b = Config.endByte
  · subst hb
    rw [feedByte_end]
    rcases feedEnd_cases s with ⟨-, hend⟩ | ⟨-, hlen, hend⟩
    · exact .inl (congrArg Prod.snd hend)
    · rw [hend]
      rcases payloadResult_cases (decodeRaw s.rxbuf) with ⟨p, hok, hp⟩ | ⟨e, herror, -, he⟩
      · exact .inr (.inl ⟨p, hp, two_le_length_of_decoded hlen hok⟩)
      · exact .inr (.inr ⟨e, he, (decodeRaw_error herror).imp_right .inl⟩)
  · rw [feedByte_data b s hb]
    rcases feedData_cases b s with ⟨-, h⟩ | ⟨-, -, h⟩ | ⟨-, -, h⟩
    · exact .inl (congrArg Prod.snd h)
    · exact .inr (.inr ⟨_, congrArg Prod.snd h, .inr (.inr rfl)⟩)
    · exact .inl (congrArg Prod.snd h)

/-! ### RxStep never misses the checksum field (rule R252) -/

theorem telemetryResult_ne_noChecksumField (c : List Byte) : telemetryResult c ≠ .error .noChecksumField := by
  unfold telemetryResult
  split <;> simp

/-- The error is CheckPayload's for a payload below 2 bytes. -/
theorem payloadStep_ne_noChecksumField {p : List Byte} (hlen : 2 ≤ p.length) (s : State) :
    (payloadStep p s).2 ≠ .error .noChecksumField := by
  rcases payloadStep_cases p s with ⟨e, hcheck, hstep⟩ | ⟨c, -, hstep⟩
  · rw [hstep, ← hcheck]
    rcases checkResult_cases p with ⟨hshort, -⟩ | ⟨-, -, h⟩ | ⟨-, -, h⟩
    · omega
    all_goals simp [h]
  · rw [hstep]; exact telemetryResult_ne_noChecksumField c

theorem rxByte_ne_noChecksumField (b : Byte) (s : State) : (rxByte b s).2 ≠ .error .noChecksumField := by
  rcases feedByte_result_cases b s with h | ⟨p, h, hlen⟩ | ⟨e, h, he⟩
  · rw [rxByte_noPayload b s (by simp [h]), h]; exact Result.noConfusion
  · rw [rxByte_payload b s p h]; exact payloadStep_ne_noChecksumField hlen _
  · rw [rxByte_noPayload b s (by simp [h]), h]
    rcases he with rfl | rfl | rfl <;> simp

/-- Settles O49: every payload of Feed has room for the checksum. -/
theorem noChecksumFieldIsUnreachable : Obligations.NoChecksumFieldIsUnreachable := by
  rintro b s t ⟨⟩
  exact rxByte_ne_noChecksumField b s

/-! ### A frame fed to a clean receiver (rule R209, rule R255) -/

theorem fedAll_append (s : State) (bs cs : List Byte) : s.fedAll (bs ++ cs) = (s.fedAll bs).fedAll cs :=
  List.foldl_append

theorem run_feed {bytes : List Byte} (hne : bytes ≠ []) (s : State) :
    Host.Core.run core bytes.length (s.withScript [.feed bytes]) = .next ((s.withScript []).fedAll bytes) :=
  presents_feed.run_stmt hne [] s

/-- Raw bytes other than END, within the bound, join the buffer with no result. -/
theorem fedAll_data {g : List Byte} (hend : Config.endByte ∉ g) {s : State} (hdrop : s.rxdrop = false)
    (hresult : s.result = .none) (hfits : ∀ m, s.params.maxFrame = some m → s.rxbuf.length + g.length ≤ m) :
    s.fedAll g = { s with rxbuf := s.rxbuf ++ g, rxIndex := s.rxIndex + g.length } := by
  induction g generalizing s with
  | nil => simp
  | cons b g ih =>
    have hb : b ≠ Config.endByte := (List.ne_of_not_mem_cons hend).symm
    have hroom : s.params.maxFrame ≠ some s.rxbuf.length := fun hfull => by
      have hle := hfits _ hfull
      rw [List.length_cons] at hle
      omega
    have hfed := fed_appended hb hdrop hroom
    have hfits' : ∀ m, (s.fed b).params.maxFrame = some m → (s.fed b).rxbuf.length + g.length ≤ m := fun m hm => by
      have hle := hfits m (by rwa [fed_params] at hm)
      simp only [hfed, List.length_append, List.length_cons, List.length_nil] at hle ⊢
      omega
    rw [fedAll_cons, ih (List.not_mem_of_not_mem_cons hend) (by rw [hfed]; exact hdrop) (by rw [hfed]) hfits', hfed]
    simp [hresult, Nat.add_assoc, Nat.add_comm 1]

/-- The first END finds an empty buffer, the escaped payload is accumulated, and the last END decodes it. -/
theorem fedAll_encodeFrame {p : List Byte} {s : State} (hs : Clean s) (hlen : 3 ≤ (escape p).length)
    (hfits : ∀ m, s.params.maxFrame = some m → (escape p).length ≤ m) :
    s.fedAll (encodeFrame p) = { s with
      i := (escape p).length, out := p, result := .payload p,
      rxLog := s.rxLog ++ [(s.rxIndex + (encodeFrame p).length - 1, .payload p)],
      rxIndex := s.rxIndex + (encodeFrame p).length } := by
  have hopen := fed_end_silent (s := s) (.inr (by simp [hs.bufferEmpty]))
  have hdata : (s.fed Config.endByte).fedAll (escape p) =
      { s with rxbuf := escape p, result := .none, rxIndex := s.rxIndex + 1 + (escape p).length } := by
    rw [fedAll_data (end_not_mem_escape p) (fed_end_clean s).notDropping (by rw [hopen])
      (by simpa [fed_params, (fed_end_clean s).bufferEmpty] using hfits), hopen]
    simp [hs.notDropping]
  have hclose := fed_end_decoded (s := (s.fed Config.endByte).fedAll (escape p))
    (by rw [hdata]; exact hs.notDropping) (by rw [hdata]; exact hlen)
  have hindex : s.rxIndex + 1 + (escape p).length + 1 = s.rxIndex + (encodeFrame p).length := by
    rw [length_encodeFrame]; omega
  calc s.fedAll (encodeFrame p)
    _ = ((s.fed Config.endByte).fedAll (escape p)).fed Config.endByte := by
      rw [encodeFrame, fedAll_append, fedAll_append]; rfl
    _ = _ := by
      rw [hclose, hdata, ← hindex]
      simp [payloadResult, decodeRaw_of_unescapes (unescapes_escape p), hs.bufferEmpty]

/-- Settles O39: the frame of a payload of 3 bytes or more, whose escaped form is no shorter. -/
theorem oneFrameYieldsOnePayload : Obligations.OneFrameYieldsOnePayload := by
  intro s a e d p f hbuf hdrop hne happend hp hencode hf hfits
  cases (exec_appendChecksum d s).symm.trans happend
  cases hp
  cases (exec_encode _ s).symm.trans hencode
  cases hf
  have hclean : Clean (s.withScript []) := ⟨hbuf, hdrop⟩
  have hlen : 3 ≤ (escape (appendChecksum d)).length := by
    have hd : 0 < d.length := List.length_pos_of_ne_nil hne
    have hp : (appendChecksum d).length = d.length + 2 := by simp [appendChecksum, withChecksum]
    rw [length_escape]
    omega
  have hrun := run_feed (bytes := encodeFrame (appendChecksum d)) (List.cons_ne_nil _ _) s
  rw [fedAll_encodeFrame hclean hlen (by simpa [length_encodeFrame] using hfits)] at hrun
  exact ⟨_, hrun, hbuf, hdrop, rfl, rfl, rfl⟩

/-- Settles O40: the frame yields the commands with their checksum, which passes the check. -/
theorem loopBackReturnsTheCommands : Obligations.LoopBackReturnsTheCommands := by
  intro s t cs f hbuf hdrop hne hencode hf hfits
  obtain ⟨-, rfl⟩ := (execEncodeCommand_next cs s t).mp hencode
  cases hf
  obtain ⟨u, hrun, -, -, hresult, hlog, -⟩ := oneFrameYieldsOnePayload s _ _ cs _ _ hbuf hdrop hne
    (exec_appendChecksum cs s) rfl (exec_encode _ s) rfl hfits
  exact ⟨u, _, _, hrun, hresult, hlog, exec_checkPayload _ u, checkResult_appendChecksum cs⟩

/-! ### What enters the results of a Feed (rule R214) -/

/-- The same MAX_FRAME, the same receiver and the same last result. -/
structure SameFeeds (s t : State) : Prop where
  maxFrame : s.params.maxFrame = t.params.maxFrame
  rxbuf : s.rxbuf = t.rxbuf
  rxdrop : s.rxdrop = t.rxdrop
  result : s.result = t.result

/-- One Feed, whatever the last result was. -/
theorem fed_sameFeeds (b : Byte) {s t : State} (hmax : s.params.maxFrame = t.params.maxFrame)
    (hbuf : s.rxbuf = t.rxbuf) (hdrop : s.rxdrop = t.rxdrop) : SameFeeds (s.fed b) (t.fed b) :=
  have ⟨hresult, hbuf', hdrop'⟩ := feedByte_reads b s t hmax hbuf hdrop
  ⟨by rw [fed_params, fed_params, hmax], hbuf', hdrop', hresult⟩

theorem SameFeeds.fedAll {s t : State} (h : SameFeeds s t) (bytes : List Byte) :
    SameFeeds (s.fedAll bytes) (t.fedAll bytes) := by
  induction bytes generalizing s t with
  | nil => exact h
  | cons b bs ih => exact ih (fed_sameFeeds b h.maxFrame h.rxbuf h.rxdrop)

/-- Settles O41: after an END both receivers are clean, and from then on they get the same bytes. -/
theorem anEndSeparatesWhatFollowsFromWhatWent : Obligations.AnEndSeparatesWhatFollowsFromWhatWent := by
  rintro s₁ s₂ _ _ (_ | ⟨b, bs⟩) hmax hne ⟨⟩ ⟨⟩
  · exact absurd rfl hne
  have hfirst : SameFeeds (((s₁.fed Config.endByte).withScript []).fed b)
      (((s₂.fed Config.endByte).withScript []).fed b) :=
    fed_sameFeeds b (by simpa [fed_params] using hmax)
      ((fed_end_clean s₁).bufferEmpty.trans (fed_end_clean s₂).bufferEmpty.symm)
      ((fed_end_clean s₁).notDropping.trans (fed_end_clean s₂).notDropping.symm)
  have hall := hfirst.fedAll bs
  exact ⟨_, _, run_feed hne _, run_feed hne _, hall.result, hall.rxbuf,
    hall.rxdrop⟩

end Sys2Proof.Machine
end

section
/-! PROOFS. The Telemetry Decoder (spec/44_telemetry_decoder.md): DecodeEventByte by the bits of the byte, and the record
of a content by its event region and what follows it. -/

namespace Sys2Proof.Machine

open Sys2Proof

/-! ### One Event Byte (rule R230) -/

theorem exec_decodeEventByte (b : Byte) (s : State) :
    exec (.decodeEventByte b) s = .next { s with result := .event (eventOfByte b) } := rfl

/-- The button is the byte modulo 32: the index field is its low five bits (rule R88). -/
theorem buttonOf_indexField (b : Byte) : buttonOf (indexField b) = Fin.ofNat 32 b.toNat := by
  rw [buttonOf_eq_ofNat, indexField, BitVec.extractLsb'_toNat, Nat.shiftRight_zero]
  exact Fin.ext (Nat.mod_mod _ _)

theorem eventOfByte_padding {b : Byte} (h : b.getLsbD 6 = false) : eventOfByte b = none := by
  rw [eventOfByte_eq, bit6, h]; rfl

theorem eventOfByte_valid {b : Byte} (h : b.getLsbD 6 = true) :
    eventOfByte b =
      some { button := Fin.ofNat 32 b.toNat, kind := if b.getLsbD 7 then .release else .press } := by
  rw [eventOfByte_eq, bit6, h, buttonOf_indexField]; rfl

/-- Settles O42: a byte with bit 6 clear is padding, a byte with bit 6 set is the event of its fields. -/
theorem eventByteIsReadByItsBits : Obligations.EventByteIsReadByItsBits := by
  intro b s
  refine ⟨eventOfByte b, exec_decodeEventByte b s, eventOfByte_padding, fun h6 => ?_⟩
  refine ⟨_, eventOfByte_valid h6, rfl, ?_⟩
  cases b.getLsbD 7 <;> simp

/-! ### A whole content (rule R232, rule R234) -/

/-- The events of a region slot by slot: one for each byte with bit 6 set, none for padding (rule R233). -/
theorem eventsOf_eq_flatMap (region : List Byte) :
    eventsOf region = region.flatMap (fun b => if b.getLsbD 6 then
      [{ button := Fin.ofNat 32 b.toNat, kind := if b.getLsbD 7 then .release else .press }] else []) := by
  rw [eventsOf, List.filterMap_eq_flatMap_toList]
  congr 1
  funext b
  cases h6 : b.getLsbD 6 with
  | false => rw [eventOfByte_padding h6]; rfl
  | true => rw [eventOfByte_valid h6]; rfl

/-- The record of an event region of 32 bytes and the bytes after it. -/
theorem recordOf_append {region : List Byte} (h : region.length = 32) (tail : List Byte) :
    recordOf (region ++ tail) = { events := eventsOf region, out := outputStateOf tail } := by
  rw [recordOf, Config.eventSlots, List.take_left' h, List.drop_left' h]

/-- Settles O43: below 32 bytes the error; else the record of the region and its tail. -/
theorem telemetryIsEventsAndOutputState : Obligations.TelemetryIsEventsAndOutputState := by
  refine ⟨fun c s hshort => execDecodeTelemetry_short hshort s, fun region tail s hregion => ?_⟩
  refine ⟨32, eventsOf region, outputStateOf tail, ?_, eventsOf_eq_flatMap region, outputStateOf_short, ?_⟩
  · have hlong : 32 ≤ (region ++ tail).length := by rw [List.length_append, hregion]; exact Nat.le_add_right _ _
    rw [execDecodeTelemetry_record hlong, recordOf_append hregion]
  · rintro b0 b1 b2 b3 more rfl
    rfl

end Sys2Proof.Machine
end

section
/-! PROOFS. The receive pipeline (spec/45_rx_pipeline.md): what CheckPayload answers, and RxStep as Feed followed by
CheckPayload and DecodeTelemetry. -/

namespace Sys2Proof.Machine

open Sys2Proof

/-! ### CheckPayload (rule R251) -/

theorem checkResult_short {p : List Byte} (h : p.length < 2) : checkResult p = .error .noChecksumField := if_pos h

/-- With two bytes after the content the payload is long enough, and Verify decides. -/
theorem checkResult_append (d : List Byte) (hi lo : Byte) :
    checkResult (d ++ [hi, lo]) = if verify (d ++ [hi, lo]) then .content d else .error .mismatch := by
  have hlong : ¬ (d ++ [hi, lo]).length < 2 := by simp
  rw [checkResult, Config.crcBytes, if_neg hlong, payloadContent_append]

theorem checkResult_append_eq_compute (d : List Byte) (hi lo : Byte) :
    checkResult (d ++ [hi, lo]) = if compute d = joinChecksum hi lo then .content d else .error .mismatch := by
  simp only [checkResult_append, verify_append, decide_eq_true_eq]

/-- Settles O46: a payload is below 2 bytes, or carries after its content the two bytes Verify compares. -/
theorem checkPayloadStripsTheChecksum : Obligations.CheckPayloadStripsTheChecksum := by
  refine ⟨fun p s hshort => ?_, fun d hi lo s v hverify => ?_, fun d hi lo s => ⟨_, exec_compute d s, ?_⟩⟩
  · rw [exec_checkPayload, checkResult_short hshort, verifyCrc_short s.crc hshort]
  · cases (exec_verify _ s).symm.trans hverify
    rw [exec_checkPayload, checkResult_append]
    refine ⟨fun htrue => ?_, fun hfalse => ?_⟩
    · rw [if_pos (Result.bool.inj htrue)]
    · rw [Result.bool.inj hfalse]; rfl
  · rw [exec_checkPayload, checkResult_append_eq_compute, verifyCrc_append]
    rfl

/-! ### RxStep (rule R253) -/

theorem exec_rxStep (b : Byte) (s : State) : exec (.rxStep b) s = .next (s.rxStepped b) := rfl

theorem exec_decodeTelemetry (c : List Byte) (s : State) :
    exec (.decodeTelemetry c) s = .next ((s.telemetryDone c).answer (telemetryResult c)) := rfl

theorem rxStepped_noPayload {b : Byte} {s : State} (h : ∀ p, (s.fed b).result ≠ .payload p) :
    s.rxStepped b = s.fed b := by
  rw [State.rxStepped, rxByte_noPayload b s h, State.fed]

/-- RxStep is one transaction on `rx_in`, as Feed is (rule R306). -/
theorem rxStepped_rxIndex (b : Byte) (s : State) : (s.rxStepped b).rxIndex = s.rxIndex + 1 := by
  rw [State.rxStepped, deliver_rxIndex, (rxByte_receivePart b).rxIndex]

theorem telemetryResult_ne_none (c : List Byte) : telemetryResult c ≠ .none := by
  unfold telemetryResult
  split <;> simp

/-- The check and the decoding of a payload always have a result: a record or an error. -/
theorem payloadStep_ne_none (p : List Byte) (s : State) : (payloadStep p s).2 ≠ .none := by
  rcases payloadStep_cases p s with ⟨e, -, hstep⟩ | ⟨c, -, hstep⟩
  · rw [hstep]; exact Result.noConfusion
  · rw [hstep]; exact telemetryResult_ne_none c

/-- RxStep delivers what the check and the decoding of Feed's payload answer, in Feed's place in the log. -/
theorem rxStepped_payload {b : Byte} {s : State} {p : List Byte} (h : (s.fed b).result = .payload p) :
    (s.rxStepped b).result = (payloadStep p (s.fed b)).2 ∧
      (s.rxStepped b).rxLog = s.rxLog ++ [(s.rxIndex, (s.rxStepped b).result)] := by
  have hres : (rxByte b s).2 = (payloadStep p (s.fed b)).2 := by
    rw [rxByte_payload b s p h]; exact payloadStep_result p _ _
  have hsome : (rxByte b s).2 ≠ .none := hres ▸ payloadStep_ne_none p _
  rw [State.rxStepped, deliver_some hsome, (rxByte_receivePart b).rxLog, (rxByte_receivePart b).rxIndex]
  exact ⟨hres, rfl⟩

/-- Settles O47: without a payload RxStep is Feed; with one, its answer is that of the check, or of the decoding when
the check gives a content. -/
theorem rxStepIsFeedThenCheckThenDecode : Obligations.RxStepIsFeedThenCheckThenDecode := by
  intro b s
  obtain ⟨hbuf, hdrop, hparams, hctx, hunread, hscript, htx, -, -⟩ := rxByte_frame b s
  have hindex : (s.rxStepped b).rxIndex = (s.fed b).rxIndex :=
    (rxStepped_rxIndex b s).trans (fed_rxIndex b s).symm
  refine ⟨_, _, exec_feed b s, exec_rxStep b s, hbuf, hdrop, hindex, hparams, htx, hscript, hctx, hunread,
    fun hnone => rxStepped_noPayload (by simp [hnone]), fun e herror => rxStepped_noPayload (by simp [herror]),
    fun p hp => ?_, ?_⟩
  · obtain ⟨hresult, hlog⟩ := rxStepped_payload hp
    refine ⟨_, exec_checkPayload p _, hlog, ?_⟩
    rcases payloadStep_cases p (s.fed b) with ⟨e, hcheck, hstep⟩ | ⟨c, hcheck, hstep⟩
    all_goals rw [hresult, hstep, hcheck]
    · exact ⟨fun e' he => he, fun c hc => Result.noConfusion hc⟩
    · refine ⟨fun e he => Result.noConfusion he, ?_⟩
      rintro c' ⟨⟩
      exact ⟨_, exec_decodeTelemetry c _, rfl⟩
  · rcases feedByte_result_cases b s with h | ⟨p, h, -⟩ | ⟨e, h, -⟩
    · exact .inl h
    · exact .inr (.inr ⟨p, h⟩)
    · exact .inr (.inl ⟨e, h⟩)

end Sys2Proof.Machine
end

section
/-! PROOFS. The exceptions (spec/60_exceptions.md): the numbers of the errors, the receiver an error leaves behind, and
the order in which the checks on one frame fail. -/

namespace Sys2Proof.Machine

open Sys2Proof

/-- Settles O7: with no byte to read and no statement left, the machine is idle. -/
theorem nothingHappensWithoutACall : Obligations.NothingHappensWithoutACall :=
  fun _ hunread hscript => step_idle hunread hscript

/-! ### The numbers of the errors (rule R260) -/

theorem ErrorClass.code_ne_zero (c : ErrorClass) : c.code ≠ 0 := by
  cases c <;> exact Nat.succ_ne_zero _

/-- Code 0 is the code of the results that are no error, and of these only. -/
theorem errorCode_eq_zero_iff (r : Result) : r.errorCode = 0 ↔ ∀ e, r ≠ .error e := by
  cases r with
  | error e => exact iff_of_false e.errorClass.code_ne_zero fun h => h e rfl
  | _ => exact iff_of_true rfl fun _ => Result.noConfusion

/-- Settles O51: six rows of the table, and 0 for what is no error. -/
theorem errorCodesFollowTheTable : Obligations.ErrorCodesFollowTheTable :=
  ⟨rfl, rfl, rfl, rfl, rfl, rfl, errorCode_eq_zero_iff⟩

/-! ### Who reports OversizeError (rule R205)

Only the byte that overflows the buffer: neither Decode, nor the check of a payload, nor the Telemetry Decoder. -/

theorem payloadResult_ne_frameTooLong (f : List Byte) : payloadResult (decodeRaw f) ≠ .error .frameTooLong := by
  rcases payloadResult_cases (decodeRaw f) with ⟨p, -, h⟩ | ⟨e, he, -, h⟩ <;> rw [h]
  · exact Result.noConfusion
  · rcases decodeRaw_error he with rfl | rfl <;> simp

theorem telemetryResult_ne_frameTooLong (c : List Byte) : telemetryResult c ≠ .error .frameTooLong := by
  unfold telemetryResult
  split <;> simp

theorem payloadStep_ne_frameTooLong (p : List Byte) (s : State) : (payloadStep p s).2 ≠ .error .frameTooLong := by
  rcases payloadStep_cases p s with ⟨e, hcheck, hstep⟩ | ⟨c, -, hstep⟩ <;> rw [hstep]
  · rw [← hcheck]
    rcases checkResult_cases p with ⟨-, h⟩ | ⟨-, -, h⟩ | ⟨-, -, h⟩ <;> simp [h]
  · exact telemetryResult_ne_frameTooLong c

theorem rxStepped_frameTooLong_iff (b : Byte) (s : State) :
    (s.rxStepped b).result = .error .frameTooLong ↔ (s.fed b).result = .error .frameTooLong := by
  by_cases h : ∃ p, (s.fed b).result = .payload p
  · obtain ⟨p, hp⟩ := h
    rw [(rxStepped_payload hp).1, hp]
    exact iff_of_false (payloadStep_ne_frameTooLong p _) Result.noConfusion
  · rw [rxStepped_noPayload (not_exists.mp h)]

/-! ### The receiver after a result (rule R268) -/

/-- The buffer is empty, and the receiver is dropping exactly when the result is OversizeError. -/
structure CleanAfterResult (t : State) : Prop where
  bufferEmpty : t.rxbuf = []
  dropping : t.rxdrop = true ↔ t.result = .error .frameTooLong

/-- A Feed has a result at the END of a stretch, which clears the receiver, or at the overflowing byte. -/
theorem fed_cleanAfterResult {b : Byte} {s : State} (h : (s.fed b).result ≠ .none) :
    CleanAfterResult (s.fed b) := by
  by_cases hb : b = Config.endByte
  · subst hb
    rcases feedEnd_cases s with ⟨hsilent, -⟩ | ⟨hdrop, hlen, -⟩
    · simp [fed_end_silent hsilent] at h
    · have hclean := fed_end_clean s
      refine ⟨hclean.bufferEmpty, iff_of_false (by simp [hclean.notDropping]) ?_⟩
      rw [fed_end_decoded hdrop hlen]
      exact payloadResult_ne_frameTooLong s.rxbuf
  · rcases feedData_cases b s with ⟨hdrop, -⟩ | ⟨hdrop, hfull, -⟩ | ⟨hdrop, hroom, -⟩
    · simp [fed_dropped hb hdrop] at h
    · rw [fed_overflow hb hdrop hfull]
      exact ⟨rfl, iff_of_true rfl rfl⟩
    · simp [fed_appended hb hdrop hroom] at h

/-- RxStep has a result only where Feed has one, and leaves Feed's receiver. -/
theorem rxStepped_cleanAfterResult {b : Byte} {s : State} (h : (s.rxStepped b).result ≠ .none) :
    CleanAfterResult (s.rxStepped b) := by
  have hfed : (s.fed b).result ≠ .none := fun hnone => by
    rw [rxStepped_noPayload (by simp [hnone])] at h
    exact h hnone
  obtain ⟨hbuf, hdropping⟩ := fed_cleanAfterResult hfed
  obtain ⟨hsameBuf, hsameDrop, -⟩ := rxByte_frame b s
  exact ⟨hsameBuf.trans hbuf, by
    rw [rxStepped_frameTooLong_iff, ← hdropping]; exact Bool.coe_iff_coe.mpr hsameDrop⟩

/-- Settles O50: an error is a result. -/
theorem errorsLeaveACleanReceiver : Obligations.ErrorsLeaveACleanReceiver := by
  intro b s t e hexec herror
  have hsome : t.result ≠ .none := by simp [herror]
  have hclean : CleanAfterResult t := by
    rcases hexec with h | h
    · cases h; exact fed_cleanAfterResult hsome
    · cases h; exact rxStepped_cleanAfterResult hsome
  exact ⟨hclean.bufferEmpty, hclean.dropping.trans (by simp [herror])⟩

/-! ### What a payload of 2 bytes or more answers (rule R266) -/

theorem payloadStep_of_verify_false {p : List Byte} (hlen : 2 ≤ p.length) (hv : verify p = false) (s : State) :
    (payloadStep p s).2 = .error .mismatch := by
  rcases checkResult_cases p with ⟨hshort, -⟩ | ⟨-, hv', -⟩ | ⟨-, -, hcheck⟩
  · omega
  · simp [hv] at hv'
  · simp [payloadStep, hcheck]

theorem payloadStep_of_verify_true {p : List Byte} (hlen : 2 ≤ p.length) (hv : verify p = true) (s : State) :
    (payloadStep p s).2 = telemetryResult (payloadContent p) := by
  rcases checkResult_cases p with ⟨hshort, -⟩ | ⟨-, -, hcheck⟩ | ⟨-, hv', -⟩
  · omega
  · simp [payloadStep, hcheck]
  · simp [hv] at hv'

theorem length_payloadContent (p : List Byte) : (payloadContent p).length = p.length - 2 := by
  simp [payloadContent, Config.crcBytes]

theorem telemetryResult_short {c : List Byte} (h : c.length < 32) : telemetryResult c = .error .telemetryTooShort :=
  if_pos h

theorem telemetryResult_long {c : List Byte} (h : 32 ≤ c.length) : telemetryResult c = .record (recordOf c) :=
  if_neg (Nat.not_lt_of_le h)

/-! ### The order of the checks (rule R266) -/

/-- RxStep answers what its state after the byte says. -/
theorem exec_rxStep_result {b : Byte} {s : State} {r : Result} (h : (s.rxStepped b).result = r) :
    ∃ t, exec (.rxStep b) s = .next t ∧ t.result = r :=
  ⟨_, exec_rxStep b s, h⟩

/-- Where Feed has nothing or an error, RxStep passes it on (rule R253). -/
theorem rxStepped_result_of_fed {b : Byte} {s : State} {r : Result} (h : (s.fed b).result = r)
    (hr : ∀ p, r ≠ .payload p) : (s.rxStepped b).result = r := by
  rw [rxStepped_noPayload (h ▸ hr), h]

/-- What RxStep answers at the END of a stretch of 3 raw bytes or more: the error of Decode, or else what the check and
the decoding of the payload answer. -/
theorem rxStepped_end_decoded {s : State} (hdrop : s.rxdrop = false) (hlen : 3 ≤ s.rxbuf.length) :
    (∀ e, decodeResult (decodeRaw s.rxbuf) = .error e → (s.rxStepped Config.endByte).result = .error e) ∧
      ∀ p, decodeResult (decodeRaw s.rxbuf) = .ok p →
        (s.rxStepped Config.endByte).result = (payloadStep p (s.fed Config.endByte)).2 := by
  have hfed : (s.fed Config.endByte).result = payloadResult (decodeRaw s.rxbuf) := by
    rw [fed_end_decoded hdrop hlen]
  rcases payloadResult_cases (decodeRaw s.rxbuf) with ⟨p, hdecode, hresult⟩ | ⟨e, -, hdecode, hresult⟩
  all_goals rw [hdecode]
  · refine ⟨fun _ => Result.noConfusion, ?_⟩
    rintro _ ⟨⟩
    exact (rxStepped_payload (hfed.trans hresult)).1
  · refine ⟨?_, fun _ => Result.noConfusion⟩
    rintro _ ⟨⟩
    exact rxStepped_result_of_fed (hfed.trans hresult) fun _ => Result.noConfusion

/-- Settles O48: up to Decode the checks are Feed's, passed on; the rest are those of the payload Decode gives. -/
theorem theFirstFailingCheckIsReported : Obligations.TheFirstFailingCheckIsReported := by
  refine fun s => ⟨fun b hb hdrop hfull => ?_, fun hdrop => ?_, fun hshort => ?_, ?_⟩
  · exact exec_rxStep_result
      (rxStepped_result_of_fed (by rw [fed_overflow hb hdrop hfull]) fun _ => Result.noConfusion)
  · exact exec_rxStep_result
      (rxStepped_result_of_fed (by rw [fed_end_silent (.inl hdrop)]) fun _ => Result.noConfusion)
  · exact exec_rxStep_result
      (rxStepped_result_of_fed (by rw [fed_end_silent (.inr hshort)]) fun _ => Result.noConfusion)
  · rintro _ hdrop hlen ⟨⟩
    obtain ⟨herror, hok⟩ := rxStepped_end_decoded hdrop hlen
    refine ⟨fun e he => exec_rxStep_result (herror e he), ?_⟩
    rintro p _ hp ⟨⟩
    have hlen2 : 2 ≤ p.length := two_le_length_of_decoded hlen hp
    have hverified (hv : verify p = true) :
        (s.rxStepped Config.endByte).result = telemetryResult (payloadContent p) :=
      (hok p hp).trans (payloadStep_of_verify_true hlen2 hv _)
    refine ⟨hlen2, fun hv => ?_, fun hv hshort => ?_, fun hv hlong => ?_⟩
    · exact exec_rxStep_result ((hok p hp).trans (payloadStep_of_verify_false hlen2 (Result.bool.inj hv) _))
    · rw [← length_payloadContent] at hshort
      exact exec_rxStep_result ((hverified (Result.bool.inj hv)).trans (telemetryResult_short hshort))
    · rw [← length_payloadContent] at hlong
      exact ⟨_, _, exec_rxStep _ s, (hverified (Result.bool.inj hv)).trans (telemetryResult_long hlong)⟩

end Sys2Proof.Machine
end

section
/-! PROOFS. Reset (spec/70_reset_and_hazards.md): its whole next state. -/

namespace Sys2Proof.Machine

open Sys2Proof

/-- Reset answers in every state, ACCUMULATING or DROPPING. -/
theorem exec_reset (s : State) : exec .reset s = .next ({ s.clearReceiver with rxIndex := 0 }.answer .unit) := rfl

/-- Settles O52: Reset clears the receiver as an END does (rule R201), restarts the byte index and answers `()`; these
updates write the four fields named and no other. -/
theorem resetClearsTheReceiver : Obligations.ResetClearsTheReceiver :=
  fun s => exec_reset s

end Sys2Proof.Machine
end
